-- ==== Sys2Proof/Word.lean ====
section
/-! DEFINITION. The word types of the machine. Everything is an unsigned bit pattern: 00_scope.md R4. -/

namespace Sys2Proof

/-- A byte: a V register, a timer, a memory cell, a framebuffer byte, the immediate nn. -/
abbrev Byte := BitVec 8

/-- A 16-bit word: an instruction word, PC, I, a call-stack slot. -/
abbrev Word := BitVec 16

/-- A 12-bit absolute address field, nnn (30_encoding.md R61). -/
abbrev Addr := BitVec 12

/-- A 4-bit field: a sprite height n, a logical key 0 to 15. -/
abbrev Nibble := BitVec 4

/-- The index of a general register V0 to VF, always a 4-bit field of the word (10_state.md R10). -/
abbrev Reg := Nibble

end Sys2Proof
end

