-- ==== Sys2Proof/Config.lean ====
section
/-! DEFINITION. What the spec leaves to the configuration and to the outside world, as constants without a
body: nothing in Lean can evaluate one or prove a value of it, so a statement holds for every value.
(The font and the other reset parameters of 00_scope.md R3 are in Machine/Memory.lean and
Machine/Reset.lean.) -/

namespace Sys2Proof

/-- The requested instructions-per-second rate of 60_exceptions.md R226, fixed for a run. The spec gives
no default (92_eei_decisions.md D15): entry 15. It enters the machine only as the number of cycles in a
frame, `Machine.ipf`. -/
opaque Config.instructionsPerSecond : Nat

/-- The keypad's answer to the `query`-th KeyHeld query, which asks about `key` (60_exceptions.md R221):
a free Boolean, under no law (D17): entry 17. -/
opaque Config.keyHeld (query : Nat) (key : Nibble) : Bool

/-- The keypad's answer to the `query`-th KeyFresh query (60_exceptions.md R222): a free value in none or
0 to 15, under no law (D17): entries 17 and 18. -/
opaque Config.keyFresh (query : Nat) : Option Nibble

/-- The `draw`-th byte of the random source (45_keypad_timer_random.md R188): a free byte, under no law
(D18): entry 19. -/
opaque Config.randomByte (draw : Nat) : Byte

end Sys2Proof
end

