-- ==== Sys2Proof/Syntax.lean ====
section
/-! DEFINITION. The instruction set as syntax: one constructor for each of the 34 rows of
spec/opcode_table.json, in the table's order (30_encoding.md R67). Every operand is exactly as wide as
its field of the instruction word (R61), so a term can hold no operand the encoding does not admit. -/

namespace Sys2Proof

/-- The 34 instructions; the comment beside each is its pattern in 30_encoding.md R67. -/
inductive Instr where
  | cls                            -- 00E0
  | ret                            -- 00EE
  | jp (nnn : Addr)                -- 1nnn
  | call (nnn : Addr)              -- 2nnn
  | seVxNn (x : Reg) (nn : Byte)   -- 3xnn
  | sneVxNn (x : Reg) (nn : Byte)  -- 4xnn
  | seVxVy (x y : Reg)             -- 5xy0
  | ldVxNn (x : Reg) (nn : Byte)   -- 6xnn
  | addVxNn (x : Reg) (nn : Byte)  -- 7xnn
  | ldVxVy (x y : Reg)             -- 8xy0
  | or (x y : Reg)                 -- 8xy1
  | and (x y : Reg)                -- 8xy2
  | xor (x y : Reg)                -- 8xy3
  | addVxVy (x y : Reg)            -- 8xy4
  | sub (x y : Reg)                -- 8xy5
  | shr (x y : Reg)                -- 8xy6
  | subn (x y : Reg)               -- 8xy7
  | shl (x y : Reg)                -- 8xyE
  | sneVxVy (x y : Reg)            -- 9xy0
  | ldINnn (nnn : Addr)            -- Annn
  | jpV0Nnn (nnn : Addr)           -- Bnnn
  | rnd (x : Reg) (nn : Byte)      -- Cxnn
  | drw (x y : Reg) (n : Nibble)   -- Dxyn
  | skp (x : Reg)                  -- Ex9E
  | sknp (x : Reg)                 -- ExA1
  | ldVxDt (x : Reg)               -- Fx07
  | ldVxK (x : Reg)                -- Fx0A
  | ldDtVx (x : Reg)               -- Fx15
  | ldStVx (x : Reg)               -- Fx18
  | addIVx (x : Reg)               -- Fx1E
  | ldFVx (x : Reg)                -- Fx29
  | ldBVx (x : Reg)                -- Fx33
  | ldMemVx (x : Reg)              -- Fx55
  | ldVxMem (x : Reg)              -- Fx65
  deriving DecidableEq, Repr

end Sys2Proof
end

