-- ==== Sys2Proof/WellFormed.lean ====
section
/-! DEFINITION. Well-formedness. A term of `Instr` is well-formed by its types (each operand is as wide as
its field), so what can be ill-formed is an instruction word: the words that are no instruction, listed
class by class in 30_encoding.md R69. The list is written here without the decoder, so that statements can
hold the decoder against it. -/

namespace Sys2Proof

/-- A word is well-formed when it is none of the unknown words of 30_encoding.md R69: the six classes with
unknown words have a check each, the ten direct classes (R63) have none. -/
def wellFormedWord (w : Word) : Bool :=
  let lowNibble := (w.extractLsb' 0 4).toNat
  let lowByte := (w.extractLsb' 0 8).toNat
  match (w.extractLsb' 12 4).toNat with
  | 0x0 => w.toNat ∈ [0x00E0, 0x00EE]
  | 0x5 => lowNibble ∈ [0x0]
  | 0x8 => lowNibble ∈ [0x0, 0x1, 0x2, 0x3, 0x4, 0x5, 0x6, 0x7, 0xE]
  | 0x9 => lowNibble ∈ [0x0]
  | 0xE => lowByte ∈ [0x9E, 0xA1]
  | 0xF => lowByte ∈ [0x07, 0x0A, 0x15, 0x18, 0x1E, 0x29, 0x33, 0x55, 0x65]
  | _ => true

end Sys2Proof
end

