-- ==== Sys2Proof/Decode.lean ====
section
/-! DEFINITION. Decoding and encoding (30_encoding.md). The decoder follows the four tiers R63 to R66; the
encoder lays out the fields of the six formats of R61 with the fixed parts of R67. The opcode numbers are
the spec's own supply (92_eei_decisions.md D1, D2): entry 1. -/

namespace Sys2Proof

/-- Why the decoder gives no instruction. -/
inductive Rejection where
  /-- No handler matches the word at its tier (30_encoding.md R68): the machine faults with it. -/
  | unknownInstruction (w : Word)
  /-- Fewer than the two bytes every instruction has (R60): never from a fetch, which reads both. -/
  | fewerThanTwoBytes
  deriving DecidableEq, Repr

/-- The word whose first byte in memory is `hi` and whose second is `lo` (20_memory.md R44). -/
def wordOfBytes (hi lo : Byte) : Word := hi.setWidth 16 <<< 8 ||| lo.setWidth 16

/-- The byte of a word at the lower address: w[15:8] (R44). -/
def highByte (w : Word) : Byte := w.extractLsb' 8 8

/-- The byte of a word at the next address: w[7:0] (R44). -/
def lowByte (w : Word) : Byte := w.extractLsb' 0 8

/-- The opcode class w[15:12] (R61). -/
def fieldClass (w : Word) : Nibble := w.extractLsb' 12 4

/-- x = w[11:8] (R61). -/
def fieldX (w : Word) : Reg := w.extractLsb' 8 4

/-- y = w[7:4] (R61). -/
def fieldY (w : Word) : Reg := w.extractLsb' 4 4

/-- n = w[3:0] (R61). -/
def fieldN (w : Word) : Nibble := w.extractLsb' 0 4

/-- nn = w[7:0] (R61). -/
def fieldNN (w : Word) : Byte := w.extractLsb' 0 8

/-- nnn = w[11:0] (R61). -/
def fieldNNN (w : Word) : Addr := w.extractLsb' 0 12

/-- Tier 2 (30_encoding.md R64): class 0, matched on all 16 bits. -/
def decodeTier2 (w : Word) : Except Rejection Instr :=
  match w.toNat with
  | 0x00E0 => .ok .cls
  | 0x00EE => .ok .ret
  | _ => .error (.unknownInstruction w)

/-- Tier 3 (R65), class 8: chosen by the low nibble. -/
def decodeClass8 (w : Word) : Except Rejection Instr :=
  match (fieldN w).toNat with
  | 0x0 => .ok (.ldVxVy (fieldX w) (fieldY w))
  | 0x1 => .ok (.or (fieldX w) (fieldY w))
  | 0x2 => .ok (.and (fieldX w) (fieldY w))
  | 0x3 => .ok (.xor (fieldX w) (fieldY w))
  | 0x4 => .ok (.addVxVy (fieldX w) (fieldY w))
  | 0x5 => .ok (.sub (fieldX w) (fieldY w))
  | 0x6 => .ok (.shr (fieldX w) (fieldY w))
  | 0x7 => .ok (.subn (fieldX w) (fieldY w))
  | 0xE => .ok (.shl (fieldX w) (fieldY w))
  | _ => .error (.unknownInstruction w)

/-- Tier 3 (R65), classes 5 and 9: the low nibble must be 0. -/
def decodeSkipRegisters (i : Instr) (w : Word) : Except Rejection Instr :=
  match (fieldN w).toNat with
  | 0x0 => .ok i
  | _ => .error (.unknownInstruction w)

/-- Tier 4 (R66), class E: chosen by the low byte. -/
def decodeClassE (w : Word) : Except Rejection Instr :=
  match (fieldNN w).toNat with
  | 0x9E => .ok (.skp (fieldX w))
  | 0xA1 => .ok (.sknp (fieldX w))
  | _ => .error (.unknownInstruction w)

/-- Tier 4 (R66), class F: chosen by the low byte. -/
def decodeClassF (w : Word) : Except Rejection Instr :=
  match (fieldNN w).toNat with
  | 0x07 => .ok (.ldVxDt (fieldX w))
  | 0x0A => .ok (.ldVxK (fieldX w))
  | 0x15 => .ok (.ldDtVx (fieldX w))
  | 0x18 => .ok (.ldStVx (fieldX w))
  | 0x1E => .ok (.addIVx (fieldX w))
  | 0x29 => .ok (.ldFVx (fieldX w))
  | 0x33 => .ok (.ldBVx (fieldX w))
  | 0x55 => .ok (.ldMemVx (fieldX w))
  | 0x65 => .ok (.ldVxMem (fieldX w))
  | _ => .error (.unknownInstruction w)

/-- Tier 1 (R63): the class selects a direct handler or a further tier. The last arm stands for no class. -/
def decodeWord (w : Word) : Except Rejection Instr :=
  match (fieldClass w).toNat with
  | 0x0 => decodeTier2 w
  | 0x1 => .ok (.jp (fieldNNN w))
  | 0x2 => .ok (.call (fieldNNN w))
  | 0x3 => .ok (.seVxNn (fieldX w) (fieldNN w))
  | 0x4 => .ok (.sneVxNn (fieldX w) (fieldNN w))
  | 0x5 => decodeSkipRegisters (.seVxVy (fieldX w) (fieldY w)) w
  | 0x6 => .ok (.ldVxNn (fieldX w) (fieldNN w))
  | 0x7 => .ok (.addVxNn (fieldX w) (fieldNN w))
  | 0x8 => decodeClass8 w
  | 0x9 => decodeSkipRegisters (.sneVxVy (fieldX w) (fieldY w)) w
  | 0xA => .ok (.ldINnn (fieldNNN w))
  | 0xB => .ok (.jpV0Nnn (fieldNNN w))
  | 0xC => .ok (.rnd (fieldX w) (fieldNN w))
  | 0xD => .ok (.drw (fieldX w) (fieldY w) (fieldN w))
  | 0xE => decodeClassE w
  | 0xF => decodeClassF w
  | _ => .error (.unknownInstruction w)

/-- Decoding a stream of bytes: the instruction in its first two bytes, and the bytes after it (R60). -/
def decode : List Byte → Except Rejection (Instr × List Byte)
  | hi :: lo :: rest =>
    match decodeWord (wordOfBytes hi lo) with
    | .ok i => .ok (i, rest)
    | .error r => .error r
  | _ => .error .fewerThanTwoBytes

/-- Format A of R61: class(4) nnn(12). -/
def formatA (cls : Nibble) (nnn : Addr) : Word := cls.setWidth 16 <<< 12 ||| nnn.setWidth 16

/-- Format XI of R61: class(4) x(4) nn(8). Format X is this one with a fixed low byte. -/
def formatXI (cls : Nibble) (x : Reg) (nn : Byte) : Word :=
  cls.setWidth 16 <<< 12 ||| x.setWidth 16 <<< 8 ||| nn.setWidth 16

/-- Format XYN of R61: class(4) x(4) y(4) n(4). Format XY is this one with a fixed low nibble. -/
def formatXYN (cls : Nibble) (x y : Reg) (n : Nibble) : Word :=
  cls.setWidth 16 <<< 12 ||| x.setWidth 16 <<< 8 ||| y.setWidth 16 <<< 4 ||| n.setWidth 16

/-- The word of an instruction, row by row of 30_encoding.md R67. -/
def encodeWord : Instr → Word
  | .cls => 0x00E0
  | .ret => 0x00EE
  | .jp nnn => formatA 0x1 nnn
  | .call nnn => formatA 0x2 nnn
  | .seVxNn x nn => formatXI 0x3 x nn
  | .sneVxNn x nn => formatXI 0x4 x nn
  | .seVxVy x y => formatXYN 0x5 x y 0x0
  | .ldVxNn x nn => formatXI 0x6 x nn
  | .addVxNn x nn => formatXI 0x7 x nn
  | .ldVxVy x y => formatXYN 0x8 x y 0x0
  | .or x y => formatXYN 0x8 x y 0x1
  | .and x y => formatXYN 0x8 x y 0x2
  | .xor x y => formatXYN 0x8 x y 0x3
  | .addVxVy x y => formatXYN 0x8 x y 0x4
  | .sub x y => formatXYN 0x8 x y 0x5
  | .shr x y => formatXYN 0x8 x y 0x6
  | .subn x y => formatXYN 0x8 x y 0x7
  | .shl x y => formatXYN 0x8 x y 0xE
  | .sneVxVy x y => formatXYN 0x9 x y 0x0
  | .ldINnn nnn => formatA 0xA nnn
  | .jpV0Nnn nnn => formatA 0xB nnn
  | .rnd x nn => formatXI 0xC x nn
  | .drw x y n => formatXYN 0xD x y n
  | .skp x => formatXI 0xE x 0x9E
  | .sknp x => formatXI 0xE x 0xA1
  | .ldVxDt x => formatXI 0xF x 0x07
  | .ldVxK x => formatXI 0xF x 0x0A
  | .ldDtVx x => formatXI 0xF x 0x15
  | .ldStVx x => formatXI 0xF x 0x18
  | .addIVx x => formatXI 0xF x 0x1E
  | .ldFVx x => formatXI 0xF x 0x29
  | .ldBVx x => formatXI 0xF x 0x33
  | .ldMemVx x => formatXI 0xF x 0x55
  | .ldVxMem x => formatXI 0xF x 0x65

/-- The two bytes of an instruction as they lie in memory, high byte first (R60, R44). -/
def encode (i : Instr) : List Byte := [highByte (encodeWord i), lowByte (encodeWord i)]

/-- The instruction word whose bits are `w`, of which the opcode table gives `nbits` (every bit above
them is 0). Every row of the table has 16. -/
def tableWord (nbits w : Nat) : Word := BitVec.ofNat 16 (w % 2 ^ nbits)

/-- What the decoder reads from the bytes of `tableWord nbits w` as memory holds them. -/
def decodeTableWord (nbits w : Nat) : Option Instr :=
  match decode [highByte (tableWord nbits w), lowByte (tableWord nbits w)] with
  | .ok (i, _) => some i
  | .error _ => none

end Sys2Proof
end

