-- ==== Sys2Proof/Machine/State.lean ====
section
/-! DEFINITION. The state of the machine as plain data (10_state.md), the reasons it can stop, and its state
after reset. -/

namespace Sys2Proof.Machine

/-- The six fatal faults of 60_exceptions.md R201, each with the info value of that table (entry 11). All
are safe: the machine itself ends its run there (R200). -/
inductive Fault where
  /-- Raised by decode, in any cycle, for a word that is no instruction (R202). Safe: the spec's own end. -/
  | unknownInstruction (w : Word)
  /-- Raised by CALL at `pc` with 16 return addresses already on the stack (R203). Safe. -/
  | stackOverflow (pc : Word)
  /-- Raised by RET at `pc` with no return address on the stack (R204). Safe. -/
  | stackUnderflow (pc : Word)
  /-- Raised by the fetch (pc of 4095 or more), by DRW, LD B, LD [I] and LD Vx, [I] (an address of 4096 or
  more), and by a reset whose ROM is too long (R205). Safe. -/
  | memoryOutOfRange (addr : Nat)
  /-- Raised by LD F, Vx when Vx, here `v`, is above 15 (R206). Safe. -/
  | digitOutOfRange (v : Byte)
  /-- Raised by SKP and SKNP when Vx, here `v`, is above 15 (R207). Safe. -/
  | keyOutOfRange (v : Byte)
  deriving DecidableEq, Repr

/-- The one reason a step could have no meaning. -/
inductive Refusal where
  /-- For an arm of exec whose instruction has no meaning yet. Raised by nobody: all 34 have one. Safe. -/
  | notModelled (mnemonic : String)
  deriving DecidableEq, Repr

/-- STATUS of 10_state.md R20. -/
inductive Status where
  | running
  | faulted (reason : Fault)
  deriving DecidableEq, Repr

/-- The tone signal of one frame tick (60_exceptions.md R215). -/
inductive Tone where
  | play
  | stop
  | silent
  deriving DecidableEq, Repr

/-- 256 packed bytes, 8 pixels a byte, 8 bytes a row (10_state.md R17, R18). -/
abbrev Framebuffer := Vector Byte 256

/-- What one frame tick hands to the tone sink and to the renderer sink (R215, R216). -/
structure Frame where
  tone : Tone
  picture : Framebuffer
  deriving DecidableEq, Repr

/-- MEM as a list of listed bytes; Machine/Memory.lean says what an unlisted address reads as. -/
abbrev Memory := List Host.Cell

/-- Everything the machine remembers from one step to the next (10_state.md section 1), and last the
model's own record of its inputs and outputs. -/
structure State where
  /-- V0 to VF (R10). -/
  v : Vector Byte 16
  /-- PC (R12). -/
  pc : Word
  /-- I (R14). -/
  i : Word
  /-- STK[0] to STK[15] (R15). -/
  stk : Vector Word 16
  /-- SP, 0 to 16: how many return addresses are held (R15). -/
  sp : Fin 17
  /-- DT, the delay countdown (R16). -/
  dt : Byte
  /-- ST, the tone-trigger countdown (R16). -/
  st : Byte
  /-- FB (R17). -/
  fb : Framebuffer
  /-- MEM (R19). -/
  mem : Memory
  /-- STATUS (R20). -/
  status : Status
  /-- CYC, the cycles done in the current frame (R21). -/
  cyc : Nat
  /-- The model's own: how many KeyHeld queries have been made (entry 17). -/
  heldAsked : Nat
  /-- The model's own: how many KeyFresh queries have been made (entry 17). -/
  freshAsked : Nat
  /-- The model's own: how many random bytes have been drawn (entry 19). -/
  randomDrawn : Nat
  /-- The model's own: the frames emitted so far, newest first (entry 23). -/
  emitted : List Frame
  deriving DecidableEq, Repr

/-- The state after reset with the empty ROM (10_state.md R26). PC, MEM, STATUS and CYC are as the spec
states them; SP is implied (entry 4); V, I, STK, DT, ST and FB are 0 by the spec's choice (entry 3); the
counters and the record start empty by the model's choice (entries 17, 19, 23). -/
def State.reset : State where
  v := Vector.replicate 16 0
  pc := 0x200
  i := 0
  stk := Vector.replicate 16 0
  sp := 0
  dt := 0
  st := 0
  fb := Vector.replicate 256 0
  mem := []
  status := .running
  cyc := 0
  heldAsked := 0
  freshAsked := 0
  randomDrawn := 0
  emitted := []

end Sys2Proof.Machine
end

