-- ==== Sys2Proof/Machine/Memory.lean ====
section
/-! DEFINITION. Memory (20_memory.md): the reset image, the reading and writing of one byte in the canonical
list, and the access primitives with their bound. -/

namespace Sys2Proof.Machine

/-- MEM_SIZE (00_scope.md R2). -/
def memSize : Nat := 4096

/-- The default FONT of 70_reset_and_hazards.md R243, sixteen glyphs of five bytes, top row first; the
spec takes the bytes from general knowledge (92_eei_decisions.md D4): entry 2. -/
def font : List Byte :=
  [0xF0, 0x90, 0x90, 0x90, 0xF0] ++ [0x20, 0x60, 0x20, 0x20, 0x70] ++   -- 0, 1
  [0xF0, 0x10, 0xF0, 0x80, 0xF0] ++ [0xF0, 0x10, 0xF0, 0x10, 0xF0] ++   -- 2, 3
  [0x90, 0x90, 0xF0, 0x10, 0x10] ++ [0xF0, 0x80, 0xF0, 0x10, 0xF0] ++   -- 4, 5
  [0xF0, 0x80, 0xF0, 0x90, 0xF0] ++ [0xF0, 0x10, 0x20, 0x40, 0x40] ++   -- 6, 7
  [0xF0, 0x90, 0xF0, 0x90, 0xF0] ++ [0xF0, 0x90, 0xF0, 0x10, 0xF0] ++   -- 8, 9
  [0xF0, 0x90, 0xF0, 0x90, 0x90] ++ [0xE0, 0x90, 0xE0, 0x90, 0xE0] ++   -- A, B
  [0xF0, 0x80, 0x80, 0x80, 0xF0] ++ [0xE0, 0x90, 0x90, 0x90, 0xE0] ++   -- C, D
  [0xF0, 0x80, 0xF0, 0x80, 0xF0] ++ [0xF0, 0x80, 0xF0, 0x80, 0x80]      -- E, F

/-- What an unlisted address reads as: the reset content, the font at 0x000 to 0x04F and zero above
(10_state.md R26; 20_memory.md R47, R56): entry 6. -/
def Memory.unlisted (a : Nat) : Byte := font.getD a 0

/-- The byte at `a`: the listed one, else the reset content. -/
def Memory.read : Memory → Nat → Byte
  | [], a => Memory.unlisted a
  | (k, b) :: rest, a => if k = a then b else Memory.read rest a

/-- Puts an entry before the first entry of a higher address. -/
def Memory.insert (a : Nat) (b : Byte) : Memory → Memory
  | [] => [(a, b)]
  | (k, c) :: rest => if a < k then (a, b) :: (k, c) :: rest else (k, c) :: Memory.insert a b rest

/-- Stores `b` at `a`, keeping the list canonical: the old entry goes, and the new one is listed only if
it differs from what an unlisted address reads as. -/
def Memory.write (m : Memory) (a : Nat) (b : Byte) : Memory :=
  let others := m.filter (fun c => c.1 != a)
  if b = Memory.unlisted a then others else Memory.insert a b others

/-- Writes bytes from `a` on with no bound check: the callers have made it. -/
def Memory.load (m : Memory) (a : Nat) : List Byte → Memory
  | [] => m
  | b :: bs => Memory.load (Memory.write m a b) (a + 1) bs

/-- The canonical form: addresses strictly rising and inside the address space, and no entry equal to
what an unlisted address reads as. -/
abbrev Memory.wf (m : Memory) : Prop :=
  m.Pairwise (fun c d => c.1 < d.1) ∧ ∀ c ∈ m, c.1 < memSize ∧ c.2 ≠ Memory.unlisted c.1

/-- MemRead(addr, 1) of 20_memory.md R41. The address is a natural number (R48). -/
def memRead (m : Memory) (a : Nat) : Except Fault Byte :=
  if a < memSize then .ok (Memory.read m a) else .error (.memoryOutOfRange a)

/-- MemWrite(addr, 1, v) of 20_memory.md R42. -/
def memWrite (m : Memory) (a : Nat) (b : Byte) : Except Fault Memory :=
  if a < memSize then .ok (Memory.write m a b) else .error (.memoryOutOfRange a)

/-- The `n` bytes from `a` on, read one by one in ascending order (20_memory.md R46): the first address
out of range raises. -/
def readBytes (m : Memory) (a : Nat) : Nat → Except Fault (List Byte)
  | 0 => .ok []
  | n + 1 =>
    match memRead m a with
    | .error f => .error f
    | .ok b =>
      match readBytes m (a + 1) n with
      | .error f => .error f
      | .ok bs => .ok (b :: bs)

/-- Stores the bytes from `a` on, one by one in ascending order (20_memory.md R46): the first address out
of range raises, and nothing is said of the state then (60_exceptions.md R209). -/
def writeBytes (m : Memory) (a : Nat) : List Byte → Except Fault Memory
  | [] => .ok m
  | b :: bs =>
    match memWrite m a b with
    | .error f => .error f
    | .ok m' => writeBytes m' (a + 1) bs

end Sys2Proof.Machine
end

