-- ==== Sys2Proof/Machine/Ops.lean ====
section
/-! DEFINITION. The named operations over registers, stack, inputs and memory: every meaning is written with
these. -/

namespace Sys2Proof.Machine

/-- `raise K(info)` (60_exceptions.md R200): the one exception entry of the machine. It ends the run, saves
nothing and goes nowhere; there is no handler and no return from it (R211). The outcome carries kind and
info and no state (R209): entry 11. -/
def raise (f : Fault) : Host.Outcome State Fault Refusal := .fault f

/-- STATUS set to Faulted(kind, info) (10_state.md R20), as a host that keeps a state after a fault holds
it: entry 11. -/
def State.withFault (f : Fault) (s : State) : State := { s with status := .faulted f }

/-- The numeric code of a fault kind (60_exceptions.md R201). -/
def Fault.code : Fault → Nat
  | .unknownInstruction _ => 1
  | .stackOverflow _ => 2
  | .stackUnderflow _ => 3
  | .memoryOutOfRange _ => 4
  | .digitOutOfRange _ => 5
  | .keyOutOfRange _ => 6

/-- V[x] (10_state.md R10). -/
def State.reg (s : State) (x : Reg) : Byte := s.v[x.toNat]

/-- V[x] <- b. Every register is writable, VF included; none is hard-wired (R10). -/
def State.setReg (x : Reg) (b : Byte) (s : State) : State := { s with v := s.v.set x.toNat b }

/-- V[F] <- 1 or 0 (R11). -/
def State.setFlag (c : Bool) (s : State) : State := s.setReg 0xF (if c then 1 else 0)

/-- pc <- pc + 2 (R13). -/
def State.advance (s : State) : State := { s with pc := s.pc + 2 }

/-- pc <- pc + (c ? 4 : 2): the skip of 41_control_flow.md R109. -/
def State.skipIf (c : Bool) (s : State) : State := { s with pc := s.pc + if c then 4 else 2 }

/-- pc <- target, with no check of it (41_control_flow.md R110). -/
def State.jump (target : Word) (s : State) : State := { s with pc := target }

/-- I <- a. -/
def State.setI (a : Word) (s : State) : State := { s with i := a }

/-- MEM <- m. -/
def State.setMem (m : Memory) (s : State) : State := { s with mem := m }

/-- FB <- fb. -/
def State.setFb (fb : Framebuffer) (s : State) : State := { s with fb := fb }

/-- DT <- b. -/
def State.setDt (b : Byte) (s : State) : State := { s with dt := b }

/-- ST <- b. -/
def State.setSt (b : Byte) (s : State) : State := { s with st := b }

/-- The push of CALL (41_control_flow.md R103): a full stack raises and changes nothing. -/
def State.push (a : Word) (s : State) : Except Fault State :=
  if h : s.sp.val < 16 then
    .ok { s with stk := s.stk.set s.sp.val a, sp := ⟨s.sp.val + 1, by omega⟩ }
  else .error (.stackOverflow s.pc)

/-- The pop of RET (R101): an empty stack raises and changes nothing; the popped slot keeps its content. -/
def State.pop (s : State) : Except Fault (Word × State) :=
  if h : s.sp.val = 0 then .error (.stackUnderflow s.pc)
  else .ok (s.stk[s.sp.val - 1], { s with sp := ⟨s.sp.val - 1, by omega⟩ })

/-- V0 to Vx in ascending order, the block of LD [I], Vx (43_index_memory.md R145). -/
def State.regsUpTo (x : Reg) (s : State) : List Byte := s.v.toList.take (x.toNat + 1)

/-- Writes the bytes into V[k], V[k+1], ... in ascending order (R146). -/
def loadRegs (v : Vector Byte 16) (k : Nat) : List Byte → Vector Byte 16
  | [] => v
  | b :: bs => loadRegs (v.setIfInBounds k b) (k + 1) bs

/-- V[0..] <- bytes (R146). -/
def State.setRegsFrom0 (bs : List Byte) (s : State) : State := { s with v := loadRegs s.v 0 bs }

/-- KeyHeld(key) (60_exceptions.md R221): the keypad's free answer to this query, which is counted. -/
def State.askHeld (key : Nibble) (s : State) : Bool × State :=
  (Config.keyHeld s.heldAsked key, { s with heldAsked := s.heldAsked + 1 })

/-- KeyFresh() (R222): the keypad's free answer to this query, which is counted. -/
def State.askFresh (s : State) : Option Nibble × State :=
  (Config.keyFresh s.freshAsked, { s with freshAsked := s.freshAsked + 1 })

/-- RandomByte() (45_keypad_timer_random.md R188): a free byte; the draw is counted. -/
def State.drawRandom (s : State) : Byte × State :=
  (Config.randomByte s.randomDrawn, { s with randomDrawn := s.randomDrawn + 1 })

/-- CYC <- CYC + 1, the end of a cycle (40_execution_cycle.md R80). -/
def State.countCycle (s : State) : State := { s with cyc := s.cyc + 1 }

/-- Fetch(pc) (20_memory.md R43, R44): two bytes, the first the high one, at any alignment (R45). -/
def fetch (s : State) : Except Fault Word :=
  if s.pc.toNat < 4095 then
    .ok (wordOfBytes (Memory.read s.mem s.pc.toNat) (Memory.read s.mem (s.pc.toNat + 1)))
  else .error (.memoryOutOfRange s.pc.toNat)

/-- Stores a word at `a` and `a + 1`, high byte first. -/
def placeWord (m : Memory) (a : Nat) (w : Word) : Memory :=
  Memory.write (Memory.write m a (highByte w)) (a + 1) (lowByte w)

/-- PC_RESET (00_scope.md R2). -/
def pcReset : Word := 0x200

/-- The state `s` made ready to fetch: STATUS Running and CYC 0, so that the next step is a cycle
(40_execution_cycle.md R83), and PC where it is if two bytes can be fetched there, else PC_RESET. What
needs no change keeps its value: entry 25. -/
def State.readyToFetch (s : State) : State :=
  { s with status := .running, cyc := 0, pc := if s.pc.toNat < 4095 then s.pc else pcReset }

/-- `s` ready to fetch, with `w` at its PC: entries 5 and 25. -/
def State.placeInstruction (w : Word) (s : State) : State :=
  let r := s.readyToFetch
  r.setMem (placeWord r.mem r.pc.toNat w)

end Sys2Proof.Machine
end

