-- ==== Sys2Proof/Machine/Flags.lean ====
section
/-! DEFINITION. The flag computations of 10_state.md R11 and 42_alu.md R132, and the shared end of the
instructions that write VF: result first, flag second (R120). DRW's collision flag is in
Machine/Display.lean. -/

namespace Sys2Proof.Machine

/-- Carry out of bit 7: the true sum exceeds 255 (42_alu.md R127). -/
def carry (a b : Byte) : Bool := decide (255 < a.toNat + b.toNat)

/-- No borrow in a - b: a is greater than or equal to b (R128, R130). -/
def noBorrow (a b : Byte) : Bool := decide (b.toNat ≤ a.toNat)

/-- The bit a right shift by one moves out: bit 0 (R129). -/
def bitOutRight (b : Byte) : Bool := b.getLsbD 0

/-- The bit a left shift by one moves out: bit 7 (R131). -/
def bitOutLeft (b : Byte) : Bool := b.getLsbD 7

/-- V[x] <- result, then V[F] <- flag, then pc <- pc + 2 (R120): with x = F the flag remains (entry 8). -/
def State.finishWithFlag (x : Reg) (result : Byte) (flag : Bool) (s : State) : State :=
  ((s.setReg x result).setFlag flag).advance

end Sys2Proof.Machine
end

