-- ==== Sys2Proof/Machine/Alu.lean ====
section
/-! DEFINITION. Register load, arithmetic, logic and shifts (42_alu.md). Both operands are read before
anything is written, since every argument is computed from the state `s` (R120). -/

namespace Sys2Proof.Machine

/-- LD Vx, nn (R121). -/
def execLdVxNn (x : Reg) (nn : Byte) (s : State) : Host.Outcome State Fault Refusal :=
  .next (s.setReg x nn).advance

/-- ADD Vx, nn (R122): wraps, and touches no flag. -/
def execAddVxNn (x : Reg) (nn : Byte) (s : State) : Host.Outcome State Fault Refusal :=
  .next (s.setReg x (s.reg x + nn)).advance

/-- LD Vx, Vy (R123): touches no flag. -/
def execLdVxVy (x y : Reg) (s : State) : Host.Outcome State Fault Refusal :=
  .next (s.setReg x (s.reg y)).advance

/-- OR Vx, Vy (R124): VF is reset to 0. -/
def execOr (x y : Reg) (s : State) : Host.Outcome State Fault Refusal :=
  .next (s.finishWithFlag x (s.reg x ||| s.reg y) false)

/-- AND Vx, Vy (R125): VF is reset to 0. -/
def execAnd (x y : Reg) (s : State) : Host.Outcome State Fault Refusal :=
  .next (s.finishWithFlag x (s.reg x &&& s.reg y) false)

/-- XOR Vx, Vy (R126): VF is reset to 0. -/
def execXor (x y : Reg) (s : State) : Host.Outcome State Fault Refusal :=
  .next (s.finishWithFlag x (s.reg x ^^^ s.reg y) false)

/-- ADD Vx, Vy (R127). -/
def execAddVxVy (x y : Reg) (s : State) : Host.Outcome State Fault Refusal :=
  .next (s.finishWithFlag x (s.reg x + s.reg y) (carry (s.reg x) (s.reg y)))

/-- SUB Vx, Vy (R128): Vx - Vy. -/
def execSub (x y : Reg) (s : State) : Host.Outcome State Fault Refusal :=
  .next (s.finishWithFlag x (s.reg x - s.reg y) (noBorrow (s.reg x) (s.reg y)))

/-- SHR Vx, Vy (R129): reads Vy, not Vx. -/
def execShr (x y : Reg) (s : State) : Host.Outcome State Fault Refusal :=
  .next (s.finishWithFlag x (s.reg y >>> 1) (bitOutRight (s.reg y)))

/-- SUBN Vx, Vy (R130): Vy - Vx. -/
def execSubn (x y : Reg) (s : State) : Host.Outcome State Fault Refusal :=
  .next (s.finishWithFlag x (s.reg y - s.reg x) (noBorrow (s.reg y) (s.reg x)))

/-- SHL Vx, Vy (R131): reads Vy, not Vx. -/
def execShl (x y : Reg) (s : State) : Host.Outcome State Fault Refusal :=
  .next (s.finishWithFlag x (s.reg y <<< 1) (bitOutLeft (s.reg y)))

end Sys2Proof.Machine
end

