-- ==== Sys2Proof/Machine/Operands.lean ====
section
/-! DEFINITION. The operand forms: immediates, the one data addressing mode, and the checked register
operands (30_encoding.md R62; 43_index_memory.md R140, R143; 45_keypad_timer_random.md R181). -/

namespace Sys2Proof.Machine

/-- nnn zero-extended to 16 bits, as it goes to PC or I (30_encoding.md R62). -/
def zextAddr (nnn : Addr) : Word := nnn.setWidth 16

/-- A V register's byte zero-extended to 16 bits. -/
def zextByte (b : Byte) : Word := b.setWidth 16

/-- The effective address I + k, a natural number that is never truncated (43_index_memory.md R140;
20_memory.md R48): entry 9. -/
def effectiveAddr (s : State) (k : Nat) : Nat := s.i.toNat + k

/-- The target nnn + V0, at most 0x10FE, so the 16-bit sum does not wrap (41_control_flow.md R108). -/
def offsetTarget (nnn : Addr) (s : State) : Word := zextAddr nnn + zextByte (s.reg 0)

/-- The digit in a register, the whole byte tested (43_index_memory.md R143). -/
def digitOperand (b : Byte) : Except Fault Nat :=
  if 15 < b.toNat then .error (.digitOutOfRange b) else .ok b.toNat

/-- FONT_BASE + 5 x digit (R143), FONT_BASE being 0x000. -/
def glyphAddr (digit : Nat) : Word := BitVec.ofNat 16 (5 * digit)

/-- The logical key in a register, the whole byte tested (45_keypad_timer_random.md R181, R182). -/
def keyOperand (b : Byte) : Except Fault Nibble :=
  if 15 < b.toNat then .error (.keyOutOfRange b) else .ok (b.setWidth 4)

/-- Hundreds, tens and ones of a byte, each a byte 0 to 9 (43_index_memory.md R144). -/
def decimalDigits (b : Byte) : List Byte :=
  [BitVec.ofNat 8 (b.toNat / 100), BitVec.ofNat 8 (b.toNat / 10 % 10), BitVec.ofNat 8 (b.toNat % 10)]

end Sys2Proof.Machine
end

