-- ==== Sys2Proof/Machine/Display.lean ====
section
/-! DEFINITION. Display (44_display.md): the clear and the sprite XOR-blit with horizontal wrap, vertical
clipping and collision detection. -/

namespace Sys2Proof.Machine

/-- All 2048 pixels unlit (R161). -/
def blankFramebuffer : Framebuffer := Vector.replicate 256 0

/-- The framebuffer and the collision flag, as a blit carries them along. -/
structure Canvas where
  fb : Framebuffer
  collision : Bool
  deriving DecidableEq, Repr

/-- XORs `p` into byte `c` of row `r` and reports a lit pixel turned off (R166, R167). -/
def blitByte (r : Fin 32) (c : Fin 8) (p : Byte) (d : Canvas) : Canvas :=
  let old := d.fb[8 * r.val + c.val]
  let new := old ^^^ p
  { fb := d.fb.set (8 * r.val + c.val) new, collision := d.collision || (old &&& ~~~new) != 0 }

/-- One sprite byte on row `r` with its left pixel at column `x0`: the part for the first byte, then the
part for the next byte, which wraps to byte 0 of the same row (R165). With x0 a multiple of 8 the second
part is 0 (entry 13). -/
def blitRow (x0 : Nat) (r : Fin 32) (row : Byte) (d : Canvas) : Canvas :=
  let c0 := Fin.ofNat 8 (x0 / 8)
  let c1 := Fin.ofNat 8 (x0 / 8 + 1)
  blitByte r c1 (row <<< (8 - x0 % 8)) (blitByte r c0 (row >>> (x0 % 8)) d)

/-- The sprite's rows from framebuffer row `y` downwards: rows past 31 are dropped (R164). -/
def blitRows (x0 y : Nat) : List Byte → Canvas → Canvas
  | [], d => d
  | row :: rows, d =>
    blitRows x0 (y + 1) rows (if h : y < 32 then blitRow x0 ⟨y, h⟩ row d else d)

/-- The column x0 = V[x] mod 64 of a start position (R163). -/
def startColumn (b : Byte) : Nat := b.toNat % 64

/-- The row y0 = V[y] mod 32 of a start position (R163). -/
def startRow (b : Byte) : Nat := b.toNat % 32

/-- CLS (R161): VF is not written. -/
def execCls (s : State) : Host.Outcome State Fault Refusal := .next (s.setFb blankFramebuffer).advance

/-- DRW Vx, Vy, n (R162): all n bytes are read first, clipped rows included (R168; entry 12); VF is
written last, and always. -/
def execDrw (x y : Reg) (n : Nibble) (s : State) : Host.Outcome State Fault Refusal :=
  match readBytes s.mem (effectiveAddr s 0) n.toNat with
  | .error f => raise f
  | .ok rows =>
    let d := blitRows (startColumn (s.reg x)) (startRow (s.reg y)) rows { fb := s.fb, collision := false }
    .next ((s.setFb d.fb).setFlag d.collision).advance

end Sys2Proof.Machine
end

