-- ==== Sys2Proof/Machine/IndexMemory.lean ====
section
/-! DEFINITION. The index register and memory transfer (43_index_memory.md). None writes VF; each ends with
pc + 2 (R140). -/

namespace Sys2Proof.Machine

/-- LD I, nnn (R141). -/
def execLdINnn (nnn : Addr) (s : State) : Host.Outcome State Fault Refusal :=
  .next (s.setI (zextAddr nnn)).advance

/-- ADD I, Vx (R142): 16 bits, wrapping (entry 10), no flag. -/
def execAddIVx (x : Reg) (s : State) : Host.Outcome State Fault Refusal :=
  .next (s.setI (s.i + zextByte (s.reg x))).advance

/-- LD F, Vx (R143): computes an address and reads no memory. -/
def execLdFVx (x : Reg) (s : State) : Host.Outcome State Fault Refusal :=
  match digitOperand (s.reg x) with
  | .error f => raise f
  | .ok d => .next (s.setI (glyphAddr d)).advance

/-- LD B, Vx (R144): hundreds, tens, ones at I, I + 1, I + 2. -/
def execLdBVx (x : Reg) (s : State) : Host.Outcome State Fault Refusal :=
  match writeBytes s.mem (effectiveAddr s 0) (decimalDigits (s.reg x)) with
  | .error f => raise f
  | .ok m => .next (s.setMem m).advance

/-- LD [I], Vx (R145): V0 to Vx at I to I + x, then I + 1 whatever x is. -/
def execLdMemVx (x : Reg) (s : State) : Host.Outcome State Fault Refusal :=
  match writeBytes s.mem (effectiveAddr s 0) (s.regsUpTo x) with
  | .error f => raise f
  | .ok m => .next ((s.setMem m).setI (s.i + 1)).advance

/-- LD Vx, [I] (R146): I to I + x into V0 to Vx, then I + 1 whatever x is. -/
def execLdVxMem (x : Reg) (s : State) : Host.Outcome State Fault Refusal :=
  match readBytes s.mem (effectiveAddr s 0) (x.toNat + 1) with
  | .error f => raise f
  | .ok bs => .next ((s.setRegsFrom0 bs).setI (s.i + 1)).advance

end Sys2Proof.Machine
end

