-- ==== Sys2Proof/Machine/Io.lean ====
section
/-! DEFINITION. Keypad, timers and random (45_keypad_timer_random.md). The keypad's answers and the random
bytes are free values (entries 17, 19). -/

namespace Sys2Proof.Machine

/-- RND Vx, nn (R187): one byte drawn, ANDed with nn. -/
def execRnd (x : Reg) (nn : Byte) (s : State) : Host.Outcome State Fault Refusal :=
  .next (s.drawRandom.2.setReg x (s.drawRandom.1 &&& nn)).advance

/-- SKP Vx (R181): the range check comes before the query. -/
def execSkp (x : Reg) (s : State) : Host.Outcome State Fault Refusal :=
  match keyOperand (s.reg x) with
  | .error f => raise f
  | .ok k => .next ((s.askHeld k).2.skipIf (s.askHeld k).1)

/-- SKNP Vx (R182). -/
def execSknp (x : Reg) (s : State) : Host.Outcome State Fault Refusal :=
  match keyOperand (s.reg x) with
  | .error f => raise f
  | .ok k => .next ((s.askHeld k).2.skipIf (!(s.askHeld k).1))

/-- LD Vx, DT (R184). -/
def execLdVxDt (x : Reg) (s : State) : Host.Outcome State Fault Refusal :=
  .next (s.setReg x s.dt).advance

/-- What a fresh key does (R183): none leaves the registers and PC alone, so that the next cycle executes
the instruction again; a key goes to V[x]. -/
def State.takeKey (x : Reg) : Option Nibble → State → State
  | none, s => s
  | some k, s => (s.setReg x (k.setWidth 8)).advance

/-- LD Vx, K (R183): one KeyFresh query an execution. -/
def execLdVxK (x : Reg) (s : State) : Host.Outcome State Fault Refusal :=
  .next (s.askFresh.2.takeKey x s.askFresh.1)

/-- LD DT, Vx (R185). -/
def execLdDtVx (x : Reg) (s : State) : Host.Outcome State Fault Refusal :=
  .next (s.setDt (s.reg x)).advance

/-- LD ST, Vx (R186). -/
def execLdStVx (x : Reg) (s : State) : Host.Outcome State Fault Refusal :=
  .next (s.setSt (s.reg x)).advance

end Sys2Proof.Machine
end

