-- ==== Sys2Proof/Machine/Frame.lean ====
section
/-! DEFINITION. The frame tick and the length of a frame (60_exceptions.md R212 to R216;
40_execution_cycle.md R82, R88). -/

namespace Sys2Proof.Machine

/-- The number of cycles in a frame for a requested rate: max(1, IPS div 60), rounding down
(40_execution_cycle.md R88). Written as a successor so that the kernel sees it is not 0. -/
def cyclesPerFrame (ips : Nat) : Nat := (ips / 60 - 1) + 1

/-- IPF, constant during a run and any natural number of at least 1 (00_scope.md R3): entry 15. -/
def ipf : Nat := cyclesPerFrame Config.instructionsPerSecond

/-- One decrement of a countdown: stays at 0 and never wraps (60_exceptions.md R213, R214). -/
def countDown (b : Byte) : Byte := if b = 0 then 0 else b - 1

/-- The tone signal of a tick, from ST before it (R215): entry 14. -/
def toneOf (stOld : Byte) : Tone :=
  if stOld = 0 then .silent else if countDown stOld = 0 then .stop else .play

/-- FrameTick() (R212): it touches DT, ST and CYC, and emits the tone and the picture (entry 23). -/
def frameTick (s : State) : State :=
  { s with
    dt := countDown s.dt
    st := countDown s.st
    cyc := 0
    emitted := { tone := toneOf s.st, picture := s.fb } :: s.emitted }

end Sys2Proof.Machine
end

