-- ==== Sys2Proof/Machine/Cycle.lean ====
section
/-! DEFINITION. The cycle, the schedule of cycles and frame ticks, and the end of a run
(40_execution_cycle.md). -/

namespace Sys2Proof.Machine

/-- The end of a cycle (R80): a rule that raised leaves nothing to count. -/
def closeCycle : Host.Outcome State Fault Refusal → Host.Outcome State Fault Refusal
  | .next t => .next t.countCycle
  | .fault f => .fault f
  | .refused r => .refused r

/-- Cycle() (R80): fetch, decode, the instruction's rule, CYC + 1, strictly in this order. One call is also
what the host's step signal performs (60_exceptions.md R228; entry 16). -/
def cycle (s : State) : Host.Outcome State Fault Refusal :=
  match fetch s with
  | .error f => raise f
  | .ok w =>
    match decodeWord w with
    | .error _ => raise (.unknownInstruction w)
    | .ok i => closeCycle (exec i s)

/-- The next step (R83; 10_state.md R20): nothing happens any more in a Faulted machine; else a cycle while
CYC < IPF, and a frame tick once CYC has reached IPF. -/
def schedule (s : State) : Host.Outcome State Fault Refusal :=
  match s.status with
  | .faulted f => raise f
  | .running => if ipf ≤ s.cyc then .next (frameTick s) else cycle s

/-- The end of a run (R87; 92_eei_decisions.md D21): the word at PC is the jump `1nnn` to PC itself. The
machine has no halt and goes on stepping; entry 27. -/
def runEnded (s : State) : Bool :=
  match fetch s with
  | .ok w => w == encodeWord (.jp (s.pc.setWidth 12))
  | .error _ => false

end Sys2Proof.Machine
end

