-- ==== Sys2Proof/Machine/Step.lean ====
section
/-! DEFINITION. The step of the machine, and the placing of one instruction where it fetches. -/

namespace Sys2Proof.Machine

/-- One step of the execution engine: a cycle or a frame tick (40_execution_cycle.md R89, R83). -/
def step (s : State) : Host.Outcome State Fault Refusal := schedule s

/-- `s` with the instruction whose bits are `w` stored where the next step fetches, and ready to fetch it:
it stands for the load of a ROM at reset (entries 5 and 25). -/
def State.withFetchWord (s : State) (nbits w : Nat) : State :=
  s.placeInstruction (tableWord nbits w)

end Sys2Proof.Machine
end

