-- ==== Sys2Proof/Machine/Reset.lean ====
section
/-! DEFINITION. Reset with a ROM and with the parameters of 00_scope.md R3 (70_reset_and_hazards.md R240 to
R247). `State.reset` is this reset with the default parameters and the empty ROM. -/

namespace Sys2Proof.Machine

/-- The parameters a reset takes (00_scope.md R3; 92_eei_decisions.md D4, D5), at their defaults unless
given: entries 2 and 3. -/
structure ResetParams where
  fontBytes : Vector Byte 80 := ⟨font.toArray, by decide⟩
  v : Vector Byte 16 := Vector.replicate 16 0
  i : Word := 0
  dt : Byte := 0
  st : Byte := 0
  fb : Framebuffer := Vector.replicate 256 0
  stk : Vector Word 16 := Vector.replicate 16 0
  deriving DecidableEq, Repr

/-- ROM_BASE (00_scope.md R2). -/
def romBase : Nat := 0x200

/-- ROM_MAX (R2). -/
def romMax : Nat := memSize - romBase

/-- The memory after zero fill, font and ROM, in this order (70_reset_and_hazards.md R240, R241, R242,
R244). The list starts empty, which reads as the default font over zeros. -/
def bootMemory (p : ResetParams) (rom : List Byte) : Memory :=
  let zeros := Memory.load [] 0 (List.replicate 80 0)
  Memory.load (Memory.load zeros 0 p.fontBytes.toList) romBase rom

/-- Reset(ROM, config) (R240): a ROM of more than 3584 bytes fails and the machine never runs (R245; entry
20). IPF is not set here, being a constant of the configuration (`ipf`). -/
def boot (p : ResetParams) (rom : List Byte) : Host.Outcome State Fault Refusal :=
  if romMax < rom.length then raise (.memoryOutOfRange memSize)
  else .next
    { State.reset with
      v := p.v, i := p.i, dt := p.dt, st := p.st, fb := p.fb, stk := p.stk
      mem := bootMemory p rom }

end Sys2Proof.Machine
end

