-- ==== Sys2Proof/Safety.lean ====
section
/-! DEFINITION. The terms the claims use: the invariants, a run without a fault, the tables of the spec that
say for every instruction what it may write, where PC may go and what it may raise, and the picture as
pixels. They are written from the spec's tables, not from the meanings. -/

namespace Sys2Proof.Machine

/-- The memory list is canonical (Machine/Memory.lean). -/
def MemoryCanonical (s : State) : Prop := s.mem.wf

/-- PC is at most 0x10FE and every live return address is 2 to 4096 (10_state.md R13, R25). -/
def PcInRange (s : State) : Prop :=
  s.pc.toNat ≤ 0x10FE ∧
    ∀ k : Fin 16, k.val < s.sp.val → 2 ≤ s.stk[k].toNat ∧ s.stk[k].toNat ≤ 4096

/-- CYC is at most IPF (40_execution_cycle.md R83). -/
def FrameCountInRange (s : State) : Prop := s.cyc ≤ ipf

/-- `n` steps from `s` without a fault end in `t`: a run of the machine is safe as far as it reaches. -/
def RunsTo : Nat → State → State → Prop
  | 0, s, t => s = t
  | n + 1, s, t => ∃ u, step s = .next u ∧ RunsTo n u t

/-- Which general registers an instruction may write: the column "writes" of 10_state.md R10. -/
def mayWrite : Instr → Reg → Bool
  | .ldVxNn x _, r | .addVxNn x _, r | .ldVxVy x _, r | .rnd x _, r | .ldVxDt x, r | .ldVxK x, r =>
    r == x
  | .or x _, r | .and x _, r | .xor x _, r | .addVxVy x _, r | .sub x _, r | .shr x _, r
  | .subn x _, r | .shl x _, r => r == x || r == 0xF
  | .drw _ _ _, r => r == 0xF
  | .ldVxMem x, r => decide (r.toNat ≤ x.toNat)
  | .cls, _ | .ret, _ | .jp _, _ | .call _, _ | .seVxNn _ _, _ | .sneVxNn _ _, _ | .seVxVy _ _, _
  | .sneVxVy _ _, _ | .ldINnn _, _ | .jpV0Nnn _, _ | .skp _, _ | .sknp _, _ | .ldDtVx _, _
  | .ldStVx _, _ | .addIVx _, _ | .ldFVx _, _ | .ldBVx _, _ | .ldMemVx _, _ => false

/-- The nine instructions that write VF as a side effect (10_state.md R11). -/
def writesFlag : Instr → Bool
  | .or _ _ | .and _ _ | .xor _ _ | .addVxVy _ _ | .sub _ _ | .shr _ _ | .subn _ _ | .shl _ _
  | .drw _ _ _ => true
  | .cls | .ret | .jp _ | .call _ | .seVxNn _ _ | .sneVxNn _ _ | .seVxVy _ _ | .ldVxNn _ _
  | .addVxNn _ _ | .ldVxVy _ _ | .sneVxVy _ _ | .ldINnn _ | .jpV0Nnn _ | .rnd _ _ | .skp _ | .sknp _
  | .ldVxDt _ | .ldVxK _ | .ldDtVx _ | .ldStVx _ | .addIVx _ | .ldFVx _ | .ldBVx _ | .ldMemVx _
  | .ldVxMem _ => false

/-- The values PC may take at the end of an instruction's cycle: the table of 10_state.md R13. -/
def nextPc (s : State) (p : Word) : Instr → Prop
  | .jp nnn | .call nnn => p.toNat = nnn.toNat
  | .jpV0Nnn nnn => p.toNat = nnn.toNat + (s.reg 0).toNat
  | .ret => ∃ _ : 0 < s.sp.val, p = s.stk[s.sp.val - 1]
  | .seVxNn _ _ | .sneVxNn _ _ | .seVxVy _ _ | .sneVxVy _ _ | .skp _ | .sknp _ =>
    p = s.pc + 2 ∨ p = s.pc + 4
  | .ldVxK _ => p = s.pc ∨ p = s.pc + 2
  | .cls | .ldVxNn _ _ | .addVxNn _ _ | .ldVxVy _ _ | .or _ _ | .and _ _ | .xor _ _ | .addVxVy _ _
  | .sub _ _ | .shr _ _ | .subn _ _ | .shl _ _ | .ldINnn _ | .rnd _ _ | .drw _ _ _ | .ldVxDt _
  | .ldDtVx _ | .ldStVx _ | .addIVx _ | .ldFVx _ | .ldBVx _ | .ldMemVx _ | .ldVxMem _ => p = s.pc + 2

/-- `f` is MemoryOutOfRange at the first of the `n` addresses I, I + 1, ... that is 4096 or more
(20_memory.md R46, R48). -/
def firstOutOfRange (s : State) (n : Nat) (f : Fault) : Prop :=
  ∃ k < n, 4096 ≤ s.i.toNat + k ∧ (∀ j < k, s.i.toNat + j < 4096) ∧
    f = .memoryOutOfRange (s.i.toNat + k)

/-- Which fault an instruction raises and when: the table of 60_exceptions.md R201. -/
def raises (s : State) (f : Fault) : Instr → Prop
  | .call _ => s.sp.val = 16 ∧ f = .stackOverflow s.pc
  | .ret => s.sp.val = 0 ∧ f = .stackUnderflow s.pc
  | .ldFVx x => 15 < (s.reg x).toNat ∧ f = .digitOutOfRange (s.reg x)
  | .skp x | .sknp x => 15 < (s.reg x).toNat ∧ f = .keyOutOfRange (s.reg x)
  | .drw _ _ n => firstOutOfRange s n.toNat f
  | .ldBVx _ => firstOutOfRange s 3 f
  | .ldMemVx x | .ldVxMem x => firstOutOfRange s (x.toNat + 1) f
  | .cls | .jp _ | .seVxNn _ _ | .sneVxNn _ _ | .seVxVy _ _ | .ldVxNn _ _ | .addVxNn _ _
  | .ldVxVy _ _ | .or _ _ | .and _ _ | .xor _ _ | .addVxVy _ _ | .sub _ _ | .shr _ _ | .subn _ _
  | .shl _ _ | .sneVxVy _ _ | .ldINnn _ | .jpV0Nnn _ | .rnd _ _ | .ldVxDt _ | .ldVxK _ | .ldDtVx _
  | .ldStVx _ | .addIVx _ => False

/-- How many KeyHeld queries, KeyFresh queries and random bytes one execution asks for
(45_keypad_timer_random.md R187, R189). -/
def inputsAsked : Instr → Nat × Nat × Nat
  | .skp _ | .sknp _ => (1, 0, 0)
  | .ldVxK _ => (0, 1, 0)
  | .rnd _ _ => (0, 0, 1)
  | .cls | .ret | .jp _ | .call _ | .seVxNn _ _ | .sneVxNn _ _ | .seVxVy _ _ | .ldVxNn _ _
  | .addVxNn _ _ | .ldVxVy _ _ | .or _ _ | .and _ _ | .xor _ _ | .addVxVy _ _ | .sub _ _ | .shr _ _
  | .subn _ _ | .shl _ _ | .sneVxVy _ _ | .ldINnn _ | .jpV0Nnn _ | .drw _ _ _ | .ldVxDt _ | .ldDtVx _
  | .ldStVx _ | .addIVx _ | .ldFVx _ | .ldBVx _ | .ldMemVx _ | .ldVxMem _ => (0, 0, 0)

/-- Whether the pixel at column `c`, row `r` is lit: bit 7 - (c mod 8) of FB[8 r + c div 8]
(10_state.md R18). -/
def pixel (fb : Framebuffer) (c : Fin 64) (r : Fin 32) : Bool :=
  fb[8 * r.val + c.val / 8].getLsbD (7 - c.val % 8)

/-- DRW Vx, Vy, n inverts the pixel at column `c`, row `r`: it lies under a set bit `j` (from the left) of
sprite row `k`, with columns wrapping and rows not (44_display.md R171). -/
def DrawInverts (s : State) (x y : Reg) (n : Nibble) (c : Fin 64) (r : Fin 32) : Prop :=
  ∃ k < n.toNat, ∃ j < 8,
    c.val = ((s.reg x).toNat % 64 + j) % 64 ∧ r.val = (s.reg y).toNat % 32 + k ∧
    (Memory.read s.mem (s.i.toNat + k)).getLsbD (7 - j) = true

end Sys2Proof.Machine
end

