-- ==== Sys2Proof/Certificates/Slice0/Obligations.lean ====
section
/-! DEFINITION. The statements for the provers, one definition each, in the order of OBLIGATIONS.json.
A clause that rests on a choice of the spec's decision log or of the model is named in the docstring, with
its entry in notes/assumptions. -/

open Sys2Proof Sys2Proof.Machine

/-! ### Encoding (30_encoding.md) -/

/-- Words of every family, as bytes in memory, decode to the instructions the opcode map of
30_encoding.md R67 gives them, and the source's illegal word 0xFFFF is refused. The numbers are the spec's
supply from general knowledge, except 0x1NNN, Fx55, Fx65 and 0xFFFF (entry 1). -/
def Obligations.WordsOfEveryFamilyDecode : Prop :=
  decode [0x00, 0xE0, 0x77] = .ok (.cls, [0x77]) ∧
  decode [0x12, 0x34] = .ok (.jp 0x234, []) ∧
  decode [0x3A, 0x42] = .ok (.seVxNn 0xA 0x42, []) ∧
  decode [0x8A, 0xB5] = .ok (.sub 0xA 0xB, []) ∧
  decode [0xA2, 0xF0] = .ok (.ldINnn 0x2F0, []) ∧
  decode [0xD1, 0x25] = .ok (.drw 1 2 5, []) ∧
  decode [0xE3, 0xA1] = .ok (.sknp 3, []) ∧
  decode [0xF2, 0x55] = .ok (.ldMemVx 2, []) ∧
  decode [0xFF, 0xFF] = .error (.unknownInstruction 0xFFFF)

/-- Decoding the encoding of an instruction, with any bytes after it, gives the instruction and those
bytes, for every instruction and every value of its operands. The opcode numbers are entry 1. -/
def Obligations.DecodeOfEncodeIsTheInstruction : Prop :=
  ∀ (i : Instr) (rest : List Byte), decode (encode i ++ rest) = .ok (i, rest)

/-- Every word that decodes is the encoding of what it decodes to: the decoder ignores no bit. -/
def Obligations.EncodeOfDecodeIsTheWord : Prop :=
  ∀ (w : Word) (i : Instr), decodeWord w = .ok i → encodeWord i = w

/-- The decoder refuses exactly the unknown words of 30_encoding.md R69, each by name with the word. -/
def Obligations.UnknownWordsAreExactlyTheListed : Prop :=
  ∀ w : Word, if wellFormedWord w then ∃ i, decodeWord w = .ok i
    else decodeWord w = .error (.unknownInstruction w)

/-! ### Memory (20_memory.md) -/

/-- MemWrite and MemRead: in range the byte written is read back and no other byte changes; at 4096 and
above both raise MemoryOutOfRange (20_memory.md R41, R42). It holds of every list, canonical or not. -/
def Obligations.MemoryWriteThenRead : Prop :=
  ∀ (m : Memory) (a : Nat) (b : Byte),
    (a < 4096 → ∃ m', memWrite m a b = .ok m' ∧ memRead m' a = .ok b ∧
      ∀ c, c ≠ a → memRead m' c = memRead m c) ∧
    (4096 ≤ a → memWrite m a b = .error (.memoryOutOfRange a) ∧
      memRead m a = .error (.memoryOutOfRange a))

/-- Fetch reads two bytes, the first one high, at any address below 4095, and raises MemoryOutOfRange(pc)
from 4095 on (20_memory.md R43). -/
def Obligations.FetchIsBigEndianAndBounded : Prop :=
  ∀ s : State,
    (s.pc.toNat < 4095 → ∃ w hi lo, fetch s = .ok w ∧ memRead s.mem s.pc.toNat = .ok hi ∧
      memRead s.mem (s.pc.toNat + 1) = .ok lo ∧ w.toNat = hi.toNat * 256 + lo.toNat) ∧
    (4095 ≤ s.pc.toNat → fetch s = .error (.memoryOutOfRange s.pc.toNat))

/-! ### The step (40_execution_cycle.md, 60_exceptions.md) -/

/-- A step inside a frame is one cycle: it faults where the fetch faults; else it faults with the word
where the word decodes to nothing; else it runs exec of the decoded instruction and counts the cycle
(40_execution_cycle.md R80). -/
def Obligations.StepRunsTheDecodedInstruction : Prop :=
  ∀ s : State, s.status = .running → s.cyc < ipf →
    (∀ f, fetch s = .error f → step s = .fault f) ∧
    (∀ w r, fetch s = .ok w → decodeWord w = .error r → step s = .fault (.unknownInstruction w)) ∧
    (∀ w i, fetch s = .ok w → decodeWord w = .ok i →
      (∀ t, exec i s = .next t → step s = .next { t with cyc := t.cyc + 1 }) ∧
      (∀ f, exec i s = .fault f → step s = .fault f))

/-- A word placed with withFetchWord is the instruction the very next step runs, whatever the state was
(entries 5 and 25: this stands for the load of a ROM). -/
def Obligations.PlacedInstructionIsTheNextToRun : Prop :=
  ∀ (s : State) (i : Instr),
    let p := s.withFetchWord 16 (encodeWord i).toNat
    (∀ t, exec i p = .next t → step p = .next { t with cyc := t.cyc + 1 }) ∧
    (∀ f, exec i p = .fault f → step p = .fault f)

/-- In the Faulted state neither a cycle nor a frame tick happens (10_state.md R20): every step answers
the fault again. -/
def Obligations.FaultedMachineDoesNothing : Prop :=
  ∀ (s : State) (f : Fault), step (s.withFault f) = .fault f

/-- At the end of a frame the step is the frame tick: both countdowns go down by one unless 0, CYC becomes
0, one frame with the present picture is emitted, and nothing else changes (60_exceptions.md R212, R216).
The record of frames is the model's own field (entry 23). At CYC above IPF, where 40_execution_cycle.md R83
gives no step and no run arrives, the tick is the model's own choice (entry 21). -/
def Obligations.FrameTickChangesOnlyTimersAndOutput : Prop :=
  ∀ s : State, s.status = .running → ipf ≤ s.cyc →
    ∃ t f, step s = .next t ∧ t.dt.toNat = s.dt.toNat - 1 ∧ t.st.toNat = s.st.toNat - 1 ∧
      t.emitted = f :: s.emitted ∧ f.picture = s.fb ∧
      t = { s with dt := t.dt, st := t.st, cyc := 0, emitted := t.emitted }

/-- DT and ST count down by one a frame tick and stay at 0, however many ticks there are, each without
regard to the other; and no instruction but LD DT, Vx writes DT and none but LD ST, Vx writes ST
(60_exceptions.md R213, R214). That no program can read ST is ToneTimerIsNeverRead. -/
def Obligations.TimersCountDownAndStayAtZero : Prop :=
  (∀ (s : State) (n : Nat),
    (frameTick^[n] s).dt.toNat = s.dt.toNat - n ∧ (frameTick^[n] s).st.toNat = s.st.toNat - n) ∧
  (∀ (i : Instr) (s t : State), exec i s = .next t →
    ((∀ x, i ≠ .ldDtVx x) → t.dt = s.dt) ∧ ((∀ x, i ≠ .ldStVx x) → t.st = s.st))

/-- The tone of a tick: Silent if ST was 0, Stop if the tick takes it from 1 to 0, Play if it is still
nonzero afterwards. That the test comes after the decrement is the spec's decision D14 (entry 14). -/
def Obligations.ToneFollowsTheCountdown : Prop :=
  ∀ s : State, ∃ f, (frameTick s).emitted = f :: s.emitted ∧
    f.tone = if s.st.toNat = 0 then .silent else if s.st.toNat = 1 then .stop else .play

/-- Exactly IPF cycles separate two frame ticks: from the start of a frame, after k steps without a fault,
k at most IPF, all have been cycles, CYC is k and nothing has been emitted; and the step after the IPF-th
is the tick, which emits one frame and starts the next (70_reset_and_hazards.md R254). The record of frames is
the model's own field (entry 23), and IPF is any number of at least 1 (entry 15). -/
def Obligations.ExactlyOneTickAFrame : Prop :=
  ∀ s t : State, s.status = .running → s.cyc = 0 →
    (∀ k, k ≤ ipf → RunsTo k s t → t.status = .running ∧ t.cyc = k ∧ t.emitted = s.emitted) ∧
    (RunsTo (ipf + 1) s t → t.status = .running ∧ t.cyc = 0 ∧
      ∃ f, t.emitted = f :: s.emitted)

/-! ### Invariants -/

/-- Every step keeps the memory list canonical. -/
def Obligations.StepKeepsMemoryCanonical : Prop :=
  ∀ s t : State, MemoryCanonical s → step s = .next t → MemoryCanonical t

/-- Every step keeps PC at or below 0x10FE and every live return address within 2 to 4096
(10_state.md R13, R25, which the spec derives). That a slot holds pc + 2 is entry 7. -/
def Obligations.StepKeepsPcInRange : Prop :=
  ∀ s t : State, PcInRange s → step s = .next t → PcInRange t

/-- Every step keeps CYC between 0 and IPF (40_execution_cycle.md R83). -/
def Obligations.StepKeepsFrameCount : Prop :=
  ∀ s t : State, FrameCountInRange s → step s = .next t → FrameCountInRange t

/-- The reset state meets the three invariants. -/
def Obligations.ResetMeetsEveryInvariant : Prop :=
  MemoryCanonical State.reset ∧ PcInRange State.reset ∧ FrameCountInRange State.reset

/-! ### Rules over all instructions -/

/-- Memory is changed by no instruction but LD B, Vx and LD [I], Vx, and not by the frame tick: a step
that leaves some byte other than it was ran one of the two (20_memory.md R55). -/
def Obligations.OnlyStoresChangeMemory : Prop :=
  ∀ s t : State, step s = .next t → (∃ a, Memory.read t.mem a ≠ Memory.read s.mem a) →
    ∃ w x, fetch s = .ok w ∧ (decodeWord w = .ok (.ldBVx x) ∨ decodeWord w = .ok (.ldMemVx x))

/-- The framebuffer is changed by no instruction but CLS and DRW, and not by the frame tick
(10_state.md R17). -/
def Obligations.OnlyClearAndDrawChangeTheFramebuffer : Prop :=
  ∀ s t : State, step s = .next t → t.fb ≠ s.fb →
    ∃ w, fetch s = .ok w ∧ (decodeWord w = .ok .cls ∨ ∃ x y n, decodeWord w = .ok (.drw x y n))

/-- The call stack and its pointer are changed by no instruction but CALL and RET, and not by the frame
tick (10_state.md R15). -/
def Obligations.OnlyCallAndReturnTouchTheStack : Prop :=
  ∀ s t : State, step s = .next t → (t.stk ≠ s.stk ∨ t.sp ≠ s.sp) →
    ∃ w, fetch s = .ok w ∧ (decodeWord w = .ok .ret ∨ ∃ nnn, decodeWord w = .ok (.call nnn))

/-- I is changed by no instruction but LD I, ADD I, LD F, LD [I], Vx and LD Vx, [I], and not by the frame
tick (10_state.md R14). -/
def Obligations.OnlyFiveInstructionsChangeI : Prop :=
  ∀ s t : State, step s = .next t → t.i ≠ s.i →
    ∃ w i, fetch s = .ok w ∧ decodeWord w = .ok i ∧
      ((∃ nnn, i = .ldINnn nnn) ∨ ∃ x, i = .addIVx x ∨ i = .ldFVx x ∨ i = .ldMemVx x ∨ i = .ldVxMem x)

/-- An instruction leaves every general register that the table of 10_state.md R10 does not let it write
as it was; so VF is changed only as a named destination or by the nine flag instructions of R11. -/
def Obligations.RegistersChangeOnlyWhereTheTableSays : Prop :=
  ∀ (i : Instr) (s t : State), exec i s = .next t → ∀ r, mayWrite i r = false → t.reg r = s.reg r

/-- Each of the nine instructions that write VF as a side effect leaves 0 or 1 in it (10_state.md R11).
With VF as destination too the flag is what remains (entry 8). -/
def Obligations.FlagIsZeroOrOne : Prop :=
  ∀ (i : Instr) (s t : State), writesFlag i = true → exec i s = .next t →
    t.reg 0xF = 0 ∨ t.reg 0xF = 1

/-- Every instruction ends its cycle with PC at a value the table of 10_state.md R13 gives it. -/
def Obligations.NextPcIsInTheTable : Prop :=
  ∀ (i : Instr) (s t : State), exec i s = .next t → nextPc s t.pc i

/-- SKP and SKNP ask the keypad one KeyHeld query an execution, LD Vx, K one KeyFresh query, RND draws one
byte; no other instruction and no frame tick asks for anything (45_keypad_timer_random.md R187, R189). The
counters that show it are the model's own fields (entries 17 and 19). -/
def Obligations.InputsAreAskedOncePerExecution : Prop :=
  (∀ (i : Instr) (s t : State), exec i s = .next t →
    (t.heldAsked, t.freshAsked, t.randomDrawn) =
      (s.heldAsked + (inputsAsked i).1, s.freshAsked + (inputsAsked i).2.1,
        s.randomDrawn + (inputsAsked i).2.2)) ∧
  (∀ s : State, (frameTick s).heldAsked = s.heldAsked ∧ (frameTick s).freshAsked = s.freshAsked ∧
    (frameTick s).randomDrawn = s.randomDrawn)

/-- A program cannot read ST (60_exceptions.md R214; 10_state.md R16): an instruction run from two states
that differ in ST alone ends in the same fault, or in states that differ in ST alone. -/
def Obligations.ToneTimerIsNeverRead : Prop :=
  ∀ (i : Instr) (s : State) (b : Byte),
    (∀ t, exec i s = .next t →
      ∃ u, exec i { s with st := b } = .next u ∧ u = { t with st := u.st }) ∧
    (∀ f, exec i s = .fault f → exec i { s with st := b } = .fault f)

/-- An instruction faults exactly when and with what the table of 60_exceptions.md R201 says. The kinds'
info values are the spec's decision D11 (entry 11), and DRW's reading of clipped rows is D13 (entry 12). -/
def Obligations.FaultsAreExactlyTheTable : Prop :=
  ∀ (i : Instr) (s : State) (f : Fault), exec i s = .fault f ↔ raises s f i

/-- No step is refused: from every state a step ends in a next state or in a fault
(93_implementation_defined.md section 1: nothing in this machine is stuck). -/
def Obligations.EveryStepEndsInNextOrFault : Prop :=
  ∀ s : State, (∃ t, step s = .next t) ∨ ∃ f, step s = .fault f

/-! ### Control flow (41_control_flow.md) -/

/-- RET: with an empty stack StackUnderflow(pc); else PC is the most recent return address, SP goes down
by one, and nothing else changes (41_control_flow.md R101). -/
def Obligations.ReturnPopsIntoPc : Prop :=
  ∀ s : State,
    (s.sp.val = 0 → exec .ret s = .fault (.stackUnderflow s.pc)) ∧
    (∀ h : 0 < s.sp.val, ∃ t, exec .ret s = .next t ∧ t.sp.val = s.sp.val - 1 ∧
      t.pc = s.stk[s.sp.val - 1] ∧ t = { s with sp := t.sp, pc := t.pc })

/-- JP nnn: PC is nnn and nothing else changes (41_control_flow.md R102). -/
def Obligations.JumpSetsPc : Prop :=
  ∀ (nnn : Addr) (s : State), ∃ t, exec (.jp nnn) s = .next t ∧ t.pc.toNat = nnn.toNat ∧
    t = { s with pc := t.pc }

/-- CALL nnn: with a full stack StackOverflow(pc); else the slot at SP holds pc + 2, every other slot is as
before, SP goes up by one, PC is nnn, and nothing else changes. That the slot holds pc + 2 is the spec's
decision D6 (entry 7). -/
def Obligations.CallPushesAndJumps : Prop :=
  ∀ (nnn : Addr) (s : State),
    (s.sp.val = 16 → exec (.call nnn) s = .fault (.stackOverflow s.pc)) ∧
    (∀ h : s.sp.val < 16, ∃ t, exec (.call nnn) s = .next t ∧ t.stk[s.sp.val] = s.pc + 2 ∧
      (∀ k : Fin 16, k.val ≠ s.sp.val → t.stk[k] = s.stk[k]) ∧ t.sp.val = s.sp.val + 1 ∧
      t.pc.toNat = nnn.toNat ∧ t = { s with stk := t.stk, sp := t.sp, pc := t.pc })

/-- Call and return are a LIFO pair: a RET in any state with the stack that a CALL left resumes at the
instruction after the CALL with the stack pointer as it was before (entry 7 for pc + 2). -/
def Obligations.ReturnUndoesCall : Prop :=
  ∀ (nnn : Addr) (s : State), s.sp.val < 16 →
    ∃ t, exec (.call nnn) s = .next t ∧ ∀ u : State, u.stk = t.stk → u.sp = t.sp →
      ∃ v, exec .ret u = .next v ∧ v.pc = s.pc + 2 ∧ v.sp = s.sp

/-- SE Vx, nn and SNE Vx, nn: PC goes up by 4 if Vx equals nn, if it differs from nn, else by 2, and
nothing else changes (41_control_flow.md R104, R105). -/
def Obligations.SkipsOnAnImmediate : Prop :=
  ∀ (x : Reg) (nn : Byte) (s : State),
    exec (.seVxNn x nn) s = .next { s with pc := s.pc + if s.reg x = nn then 4 else 2 } ∧
    exec (.sneVxNn x nn) s = .next { s with pc := s.pc + if s.reg x ≠ nn then 4 else 2 }

/-- SE Vx, Vy and SNE Vx, Vy: PC goes up by 4 if Vx equals Vy, if it differs from Vy, else by 2, and
nothing else changes (41_control_flow.md R106, R107). -/
def Obligations.SkipsOnTwoRegisters : Prop :=
  ∀ (x y : Reg) (s : State),
    exec (.seVxVy x y) s = .next { s with pc := s.pc + if s.reg x = s.reg y then 4 else 2 } ∧
    exec (.sneVxVy x y) s = .next { s with pc := s.pc + if s.reg x ≠ s.reg y then 4 else 2 }

/-- JP V0, nnn: PC is the sum of nnn and V0, not reduced to 12 bits, and nothing else changes
(41_control_flow.md R108). -/
def Obligations.JumpWithOffsetAddsV0 : Prop :=
  ∀ (nnn : Addr) (s : State), ∃ t, exec (.jpV0Nnn nnn) s = .next t ∧
    t.pc.toNat = nnn.toNat + (s.reg 0).toNat ∧ t = { s with pc := t.pc }

/-! ### Register load, arithmetic, logic, shifts (42_alu.md) -/

/-- LD Vx, nn, ADD Vx, nn and LD Vx, Vy write Vx alone: nn, the sum modulo 256, and Vy; every other
register is as before, VF among them, PC goes up by 2, and nothing else changes
(42_alu.md R121, R122, R123). -/
def Obligations.LoadsAndImmediateAddTouchNoFlag : Prop :=
  ∀ (x y : Reg) (nn : Byte) (s : State),
    (∃ t, exec (.ldVxNn x nn) s = .next t ∧ t.reg x = nn ∧ (∀ r, r ≠ x → t.reg r = s.reg r) ∧
      t = { s with v := t.v, pc := s.pc + 2 }) ∧
    (∃ t, exec (.addVxNn x nn) s = .next t ∧
      (t.reg x).toNat = ((s.reg x).toNat + nn.toNat) % 256 ∧ (∀ r, r ≠ x → t.reg r = s.reg r) ∧
      t = { s with v := t.v, pc := s.pc + 2 }) ∧
    (∃ t, exec (.ldVxVy x y) s = .next t ∧ t.reg x = s.reg y ∧ (∀ r, r ≠ x → t.reg r = s.reg r) ∧
      t = { s with v := t.v, pc := s.pc + 2 })

/-- OR, AND and XOR: Vx is the bitwise result, then VF is 0, which also remains where x is F; every other
register is as before, PC goes up by 2, and nothing else changes (42_alu.md R124, R125, R126). -/
def Obligations.LogicClearsTheFlag : Prop :=
  ∀ (x y : Reg) (s : State),
    (∃ t, exec (.or x y) s = .next t ∧ t.reg 0xF = 0 ∧
      (x ≠ 0xF → ∀ k, (t.reg x).getLsbD k = ((s.reg x).getLsbD k || (s.reg y).getLsbD k)) ∧
      (∀ r, r ≠ x → r ≠ 0xF → t.reg r = s.reg r) ∧ t = { s with v := t.v, pc := s.pc + 2 }) ∧
    (∃ t, exec (.and x y) s = .next t ∧ t.reg 0xF = 0 ∧
      (x ≠ 0xF → ∀ k, (t.reg x).getLsbD k = ((s.reg x).getLsbD k && (s.reg y).getLsbD k)) ∧
      (∀ r, r ≠ x → r ≠ 0xF → t.reg r = s.reg r) ∧ t = { s with v := t.v, pc := s.pc + 2 }) ∧
    (∃ t, exec (.xor x y) s = .next t ∧ t.reg 0xF = 0 ∧
      (x ≠ 0xF → ∀ k, (t.reg x).getLsbD k = ((s.reg x).getLsbD k ^^ (s.reg y).getLsbD k)) ∧
      (∀ r, r ≠ x → r ≠ 0xF → t.reg r = s.reg r) ∧ t = { s with v := t.v, pc := s.pc + 2 })

/-- ADD Vx, Vy: Vx is the sum modulo 256, and VF is 1 if the true sum exceeds 255, which is where the old
Vx exceeds the new one, else 0; every other register is as before, PC goes up by 2, and nothing else changes
(42_alu.md section 2). That the flag is what remains where x is F is the spec's decision D7 (entry 8). -/
def Obligations.AddSetsTheCarry : Prop :=
  ∀ (x y : Reg) (s : State), ∃ t, exec (.addVxVy x y) s = .next t ∧
    t.reg 0xF = (if 255 < (s.reg x).toNat + (s.reg y).toNat then 1 else 0) ∧
    (x ≠ 0xF → (t.reg x).toNat = ((s.reg x).toNat + (s.reg y).toNat) % 256 ∧
      (t.reg 0xF = 1 ↔ (t.reg x).toNat < (s.reg x).toNat)) ∧
    (∀ r, r ≠ x → r ≠ 0xF → t.reg r = s.reg r) ∧ t = { s with v := t.v, pc := s.pc + 2 }

/-- SUB Vx, Vy and SUBN Vx, Vy: Vx is Vx - Vy, Vy - Vx, modulo 256, and VF is 1 if there was no borrow and 0
if there was; every other register is as before, PC goes up by 2, and nothing else changes
(42_alu.md section 2). That the flag is what remains where x is F is the spec's decision D7 (entry 8). -/
def Obligations.SubtractionsSetNoBorrow : Prop :=
  ∀ (x y : Reg) (s : State),
    (∃ t, exec (.sub x y) s = .next t ∧
      t.reg 0xF = (if (s.reg y).toNat ≤ (s.reg x).toNat then 1 else 0) ∧
      (x ≠ 0xF → (t.reg x).toNat = ((s.reg x).toNat + 256 - (s.reg y).toNat) % 256) ∧
      (∀ r, r ≠ x → r ≠ 0xF → t.reg r = s.reg r) ∧ t = { s with v := t.v, pc := s.pc + 2 }) ∧
    (∃ t, exec (.subn x y) s = .next t ∧
      t.reg 0xF = (if (s.reg x).toNat ≤ (s.reg y).toNat then 1 else 0) ∧
      (x ≠ 0xF → (t.reg x).toNat = ((s.reg y).toNat + 256 - (s.reg x).toNat) % 256) ∧
      (∀ r, r ≠ x → r ≠ 0xF → t.reg r = s.reg r) ∧ t = { s with v := t.v, pc := s.pc + 2 })

/-- SHR Vx, Vy and SHL Vx, Vy: Vx is half of Vy, twice Vy modulo 256, and VF is the bit of Vy shifted out;
the old Vx is no input; every other register is as before, PC goes up by 2, and nothing else changes
(42_alu.md section 2). That the flag is what remains where x is F is the spec's decision D7 (entry 8). -/
def Obligations.ShiftsReadVy : Prop :=
  ∀ (x y : Reg) (s : State),
    (∃ t, exec (.shr x y) s = .next t ∧ (t.reg 0xF).toNat = (s.reg y).toNat % 2 ∧
      (x ≠ 0xF → (t.reg x).toNat = (s.reg y).toNat / 2) ∧
      (∀ r, r ≠ x → r ≠ 0xF → t.reg r = s.reg r) ∧ t = { s with v := t.v, pc := s.pc + 2 }) ∧
    (∃ t, exec (.shl x y) s = .next t ∧ (t.reg 0xF).toNat = (s.reg y).toNat / 128 ∧
      (x ≠ 0xF → (t.reg x).toNat = 2 * (s.reg y).toNat % 256) ∧
      (∀ r, r ≠ x → r ≠ 0xF → t.reg r = s.reg r) ∧ t = { s with v := t.v, pc := s.pc + 2 })

/-! ### Index register and memory transfer (43_index_memory.md) -/

/-- LD I, nnn: I is nnn, PC goes up by 2, and nothing else changes (43_index_memory.md R141). -/
def Obligations.LoadIndexSetsI : Prop :=
  ∀ (nnn : Addr) (s : State), ∃ t, exec (.ldINnn nnn) s = .next t ∧ t.i.toNat = nnn.toNat ∧
    t = { s with i := t.i, pc := s.pc + 2 }

/-- ADD I, Vx: I is the sum of I and Vx modulo 65536, no flag is written, PC goes up by 2, and nothing else
changes. The wrap past 0xFFFF is the spec's decision D9 (entry 10). -/
def Obligations.AddIndexWritesNoFlag : Prop :=
  ∀ (x : Reg) (s : State), ∃ t, exec (.addIVx x) s = .next t ∧
    t.i.toNat = (s.i.toNat + (s.reg x).toNat) % 65536 ∧ t = { s with i := t.i, pc := s.pc + 2 }

/-- LD F, Vx: with Vx above 15 DigitOutOfRange(Vx); else I is 5 times Vx, PC goes up by 2, and nothing else
changes (43_index_memory.md R143). -/
def Obligations.GlyphAddressOrDigitFault : Prop :=
  ∀ (x : Reg) (s : State),
    (15 < (s.reg x).toNat → exec (.ldFVx x) s = .fault (.digitOutOfRange (s.reg x))) ∧
    ((s.reg x).toNat ≤ 15 → ∃ t, exec (.ldFVx x) s = .next t ∧ t.i.toNat = 5 * (s.reg x).toNat ∧
      t = { s with i := t.i, pc := s.pc + 2 })

/-- LD B, Vx: where I to I + 2 are in range, the hundreds, tens and ones of Vx are at I, I + 1 and I + 2,
every other byte of memory is as before, PC goes up by 2, and nothing else changes; else
MemoryOutOfRange at the first of the three addresses that is 4096 or more (43_index_memory.md R144). -/
def Obligations.DecimalDigitsAreStored : Prop :=
  ∀ (x : Reg) (s : State),
    (s.i.toNat + 2 < 4096 → ∃ t, exec (.ldBVx x) s = .next t ∧
      (Memory.read t.mem (effectiveAddr s 0)).toNat = (s.reg x).toNat / 100 ∧
      (Memory.read t.mem (effectiveAddr s 1)).toNat = (s.reg x).toNat / 10 % 10 ∧
      (Memory.read t.mem (effectiveAddr s 2)).toNat = (s.reg x).toNat % 10 ∧
      (∀ a, a < effectiveAddr s 0 ∨ effectiveAddr s 2 < a →
        Memory.read t.mem a = Memory.read s.mem a) ∧
      t = { s with mem := t.mem, pc := s.pc + 2 }) ∧
    (4096 ≤ s.i.toNat + 2 → ∃ f, exec (.ldBVx x) s = .fault f ∧ firstOutOfRange s 3 f)

/-- LD [I], Vx: where I to I + x are in range, Vk is at I + k for every k up to x, every other byte of
memory is as before, I goes up by exactly 1, PC by 2, and nothing else changes; else MemoryOutOfRange at
the first address that is 4096 or more (43_index_memory.md R145). -/
def Obligations.RegistersAreStored : Prop :=
  ∀ (x : Reg) (s : State),
    (s.i.toNat + x.toNat < 4096 → ∃ t, exec (.ldMemVx x) s = .next t ∧
      (∀ k : Reg, k.toNat ≤ x.toNat → Memory.read t.mem (effectiveAddr s k.toNat) = s.reg k) ∧
      (∀ a, a < effectiveAddr s 0 ∨ effectiveAddr s x.toNat < a →
        Memory.read t.mem a = Memory.read s.mem a) ∧
      t.i.toNat = s.i.toNat + 1 ∧ t = { s with mem := t.mem, i := t.i, pc := s.pc + 2 }) ∧
    (4096 ≤ s.i.toNat + x.toNat →
      ∃ f, exec (.ldMemVx x) s = .fault f ∧ firstOutOfRange s (x.toNat + 1) f)

/-- LD Vx, [I]: where I to I + x are in range, Vk is the byte at I + k for every k up to x, every other
register is as before, I goes up by exactly 1, PC by 2, and nothing else changes; else MemoryOutOfRange at
the first address that is 4096 or more (43_index_memory.md R146). -/
def Obligations.RegistersAreLoaded : Prop :=
  ∀ (x : Reg) (s : State),
    (s.i.toNat + x.toNat < 4096 → ∃ t, exec (.ldVxMem x) s = .next t ∧
      (∀ k : Reg, k.toNat ≤ x.toNat → t.reg k = Memory.read s.mem (effectiveAddr s k.toNat)) ∧
      (∀ r : Reg, x.toNat < r.toNat → t.reg r = s.reg r) ∧
      t.i.toNat = s.i.toNat + 1 ∧ t = { s with v := t.v, i := t.i, pc := s.pc + 2 }) ∧
    (4096 ≤ s.i.toNat + x.toNat →
      ∃ f, exec (.ldVxMem x) s = .fault f ∧ firstOutOfRange s (x.toNat + 1) f)

/-- What LD [I], Vx stored, LD Vx, [I] brings back if I is set to where it was (43_index_memory.md R147,
which the spec derives). -/
def Obligations.LoadBringsBackWhatWasStored : Prop :=
  ∀ (x : Reg) (s : State), s.i.toNat + x.toNat < 4096 →
    ∃ t, exec (.ldMemVx x) s = .next t ∧ ∀ u : State, u.mem = t.mem → u.i = s.i →
      ∃ w, exec (.ldVxMem x) u = .next w ∧ ∀ k : Reg, k.toNat ≤ x.toNat → w.reg k = s.reg k

/-! ### Display (44_display.md) -/

/-- CLS: every framebuffer byte is 0, PC goes up by 2, and nothing else changes, VF among it
(44_display.md R161). -/
def Obligations.ClearUnlightsEveryPixel : Prop :=
  ∀ s : State, ∃ t, exec .cls s = .next t ∧ (∀ a : Fin 256, t.fb[a] = 0) ∧
    t = { s with fb := t.fb, pc := s.pc + 2 }

/-- DRW Vx, Vy, n, pixel by pixel (44_display.md R171, which the spec derives from R163 to R167): where
its sprite bytes are in range it inverts exactly the pixels under set bits of the sprite, columns wrapping
and rows not; VF is 1 if one of them was lit, else 0; every other register is as before, PC goes up by 2,
and nothing else changes, memory and I among it. That the aligned second byte gets nothing is entry 13. -/
def Obligations.DrawInvertsTheSpritePixels : Prop :=
  ∀ (x y : Reg) (n : Nibble) (s : State), (∀ k < n.toNat, effectiveAddr s k < 4096) →
    ∃ t, exec (.drw x y n) s = .next t ∧
      (∀ c r, DrawInverts s x y n c r → pixel t.fb c r = !pixel s.fb c r) ∧
      (∀ c r, ¬ DrawInverts s x y n c r → pixel t.fb c r = pixel s.fb c r) ∧
      ((∃ c r, pixel s.fb c r = true ∧ DrawInverts s x y n c r) → t.reg 0xF = 1) ∧
      ((¬ ∃ c r, pixel s.fb c r = true ∧ DrawInverts s x y n c r) → t.reg 0xF = 0) ∧
      (∀ r, r ≠ 0xF → t.reg r = s.reg r) ∧
      t = { s with v := t.v, fb := t.fb, pc := s.pc + 2 }

/-- Drawing the same sprite twice at the same position restores the framebuffer (44_display.md R166): the
second DRW may be of any registers and from any state with the first one's picture, memory and I, so long
as its coordinates and height are the same. -/
def Obligations.DrawingTwiceRestoresThePicture : Prop :=
  ∀ (x y x' y' : Reg) (n : Nibble) (s t u : State), exec (.drw x y n) s = .next t →
    u.fb = t.fb → u.mem = s.mem → u.i = s.i → u.reg x' = s.reg x → u.reg y' = s.reg y →
    ∃ w, exec (.drw x' y' n) u = .next w ∧ w.fb = s.fb

/-! ### Keypad, timers and random (45_keypad_timer_random.md) -/

/-- RND Vx, nn: Vx is a free byte ANDed with nn, so it has no bit that nn has clear; one byte is drawn;
every other register is as before, PC goes up by 2, and nothing else changes (45_keypad_timer_random.md
section 2). That the byte is the free value at the counter randomDrawn, and the counter itself, are the
model's (entry 19; the spec's decision D18). -/
def Obligations.RandomByteIsMasked : Prop :=
  ∀ (x : Reg) (nn : Byte) (s : State), ∃ t, exec (.rnd x nn) s = .next t ∧
    t.reg x = Config.randomByte s.randomDrawn &&& nn ∧ t.reg x &&& ~~~nn = 0 ∧
    (∀ r, r ≠ x → t.reg r = s.reg r) ∧
    t = { s with v := t.v, pc := s.pc + 2, randomDrawn := s.randomDrawn + 1 }

/-- SKP Vx and SKNP Vx: with Vx above 15 KeyOutOfRange(Vx), and the keypad is not asked; else PC goes up by
4 if key Vx is held, if it is not held, else by 2, and nothing else changes (45_keypad_timer_random.md
section 2). That the answer is the free value at the counter heldAsked, and the counter itself, are the
model's (entry 17; the spec's decision D17). -/
def Obligations.SkipsOnAHeldKey : Prop :=
  ∀ (x : Reg) (s : State),
    (15 < (s.reg x).toNat → exec (.skp x) s = .fault (.keyOutOfRange (s.reg x)) ∧
      exec (.sknp x) s = .fault (.keyOutOfRange (s.reg x))) ∧
    (∀ k : Nibble, k.toNat = (s.reg x).toNat →
      exec (.skp x) s = .next { s with
        pc := s.pc + if Config.keyHeld s.heldAsked k then 4 else 2
        heldAsked := s.heldAsked + 1 } ∧
      exec (.sknp x) s = .next { s with
        pc := s.pc + if Config.keyHeld s.heldAsked k then 2 else 4
        heldAsked := s.heldAsked + 1 })

/-- LD Vx, K completes in every state and faults never: with no fresh key no register changes and PC stays,
so that the next cycle executes it again; with key k Vx is k, every other register is as before, and PC goes
up by 2; nothing else changes (45_keypad_timer_random.md R183). That the answer is the free value at the
counter freshAsked, and the counter itself, are the model's (entry 17; the spec's decision D17). -/
def Obligations.KeyWaitRepeatsOrTakesTheKey : Prop :=
  ∀ (x : Reg) (s : State), ∃ t, exec (.ldVxK x) s = .next t ∧
    match Config.keyFresh s.freshAsked with
    | none => t = { s with freshAsked := s.freshAsked + 1 }
    | some k => (t.reg x).toNat = k.toNat ∧ (∀ r, r ≠ x → t.reg r = s.reg r) ∧
      t = { s with v := t.v, pc := s.pc + 2, freshAsked := s.freshAsked + 1 }

/-- LD Vx, DT copies DT into Vx; LD DT, Vx and LD ST, Vx copy Vx into DT and ST; PC goes up by 2 and
nothing else changes (45_keypad_timer_random.md R184, R185, R186). -/
def Obligations.TimerAccessCopies : Prop :=
  ∀ (x : Reg) (s : State),
    (∃ t, exec (.ldVxDt x) s = .next t ∧ t.reg x = s.dt ∧ (∀ r, r ≠ x → t.reg r = s.reg r) ∧
      t = { s with v := t.v, pc := s.pc + 2 }) ∧
    exec (.ldDtVx x) s = .next { s with dt := s.reg x, pc := s.pc + 2 } ∧
    exec (.ldStVx x) s = .next { s with st := s.reg x, pc := s.pc + 2 }

/-! ### Reset (70_reset_and_hazards.md) -/

/-- A reset with a ROM that fits: the font at 0x000, the ROM at 0x200, zero everywhere else, PC 0x200, the
stack empty, STATUS Running, CYC 0 and the other registers at the parameters given, for every font and
every parameter (70_reset_and_hazards.md section 1). The memory list is in the canonical form, which is the
model's own (entry 6). SP 0 is only implied by the source (entry 4), and that the empty ROM is accepted is the
spec's decision D20 (entry 20). -/
def Obligations.BootPlacesFontAndRom : Prop :=
  ∀ (p : ResetParams) (rom : List Byte), rom.length ≤ 3584 →
    ∃ t, boot p rom = .next t ∧
      (∀ k : Fin 80, memRead t.mem k.val = .ok p.fontBytes[k]) ∧
      (∀ k (h : k < rom.length), memRead t.mem (0x200 + k) = .ok rom[k]) ∧
      (∀ a, a < 4096 → 80 ≤ a → (a < 0x200 ∨ 0x200 + rom.length ≤ a) → memRead t.mem a = .ok 0) ∧
      MemoryCanonical t ∧ t.pc = 0x200 ∧ t.sp = 0 ∧ t.status = .running ∧ t.cyc = 0 ∧
      t.v = p.v ∧ t.i = p.i ∧ t.dt = p.dt ∧ t.st = p.st ∧ t.fb = p.fb ∧ t.stk = p.stk

/-- A reset with a ROM of more than 3584 bytes fails with MemoryOutOfRange(0x1000) and the machine never
runs: the spec's decision D20 (entry 20). -/
def Obligations.OversizedRomNeverRuns : Prop :=
  ∀ (p : ResetParams) (rom : List Byte), 3584 < rom.length →
    boot p rom = .fault (.memoryOutOfRange 0x1000)

/-- The reset state is a reset with the default parameters and the empty ROM. The empty ROM's acceptance is
the spec's decision D20 (entry 20), the defaults are D4 and D5 (entries 2 and 3). -/
def Obligations.ResetIsBootWithNoRom : Prop :=
  boot {} [] = .next State.reset

/-- What reset leaves: PC 0x200 and zero memory above the font are the source's; SP 0 is implied (entry 4);
V, I, DT, ST and FB zero are the spec's decision D5 (entry 3). -/
def Obligations.ResetValues : Prop :=
  State.reset.pc = 0x200 ∧ State.reset.sp = 0 ∧ State.reset.status = .running ∧
  State.reset.cyc = 0 ∧ (∀ x, State.reset.reg x = 0) ∧ State.reset.i = 0 ∧ State.reset.dt = 0 ∧
  State.reset.st = 0 ∧ (∀ c r, pixel State.reset.fb c r = false) ∧
  (∀ a, 80 ≤ a → a < 4096 → memRead State.reset.mem a = .ok 0)

/-! ### The end of a run (40_execution_cycle.md section 5) -/

/-- From a running machine at the end of a run no number of steps faults, the run stays at its end, and only
DT, ST, CYC and the record of frames change, the timers never upwards (40_execution_cycle.md R87). What
counts as the end, a jump to its own address, is the spec's suggestion D21, taken by the model (entry 27);
the record of frames is the model's own field (entry 23). -/
def Obligations.EndedRunChangesOnlyTimersAndOutput : Prop :=
  ∀ s : State, s.status = .running → runEnded s = true → ∀ n, ∃ t, RunsTo n s t ∧
    runEnded t = true ∧ t.dt.toNat ≤ s.dt.toNat ∧ t.st.toNat ≤ s.st.toNat ∧
    t = { s with dt := t.dt, st := t.st, cyc := t.cyc, emitted := t.emitted }
end

