-- ==== Sys2Proof/Laws/Decode.lean ====
section
/-! SUPPORT. The fields of an encoded word, and the two bytes of a word (30_encoding.md R61; 20_memory.md
R44). -/

namespace Sys2Proof

/-- A bit past the width of a field is not there. -/
theorem getLsbD_past {w : Nat} (b : BitVec w) {k : Nat} (h : w ≤ k) : b.getLsbD k = false :=
  BitVec.getLsbD_of_ge b k h

@[simp] theorem class_formatA (c : Nibble) (nnn : Addr) :
    (formatA c nnn).extractLsb' 12 4 = c := by
  ext k hk
  simp [formatA, BitVec.getLsbD_eq_getElem hk, show 12 + k < 16 by omega]

@[simp] theorem nnn_formatA (c : Nibble) (nnn : Addr) :
    (formatA c nnn).extractLsb' 0 12 = nnn := by
  ext k hk
  simp [formatA, show k < 16 by omega, hk]

@[simp] theorem class_formatXI (c : Nibble) (x : Reg) (nn : Byte) :
    (formatXI c x nn).extractLsb' 12 4 = c := by
  ext k hk
  simp [formatXI, BitVec.getLsbD_eq_getElem hk, show 12 + k < 16 by omega,
    getLsbD_past x (show 4 ≤ 12 + k - 8 by omega), getLsbD_past nn (show 8 ≤ 12 + k by omega)]

@[simp] theorem x_formatXI (c : Nibble) (x : Reg) (nn : Byte) :
    (formatXI c x nn).extractLsb' 8 4 = x := by
  ext k hk
  simp [formatXI, BitVec.getLsbD_eq_getElem hk, show 8 + k < 16 by omega, show 8 + k < 12 by omega]

@[simp] theorem nn_formatXI (c : Nibble) (x : Reg) (nn : Byte) :
    (formatXI c x nn).extractLsb' 0 8 = nn := by
  ext k hk
  simp [formatXI, show k < 16 by omega, show k < 12 by omega, hk]

@[simp] theorem class_formatXYN (c : Nibble) (x y : Reg) (n : Nibble) :
    (formatXYN c x y n).extractLsb' 12 4 = c := by
  ext k hk
  simp [formatXYN, BitVec.getLsbD_eq_getElem hk, show 12 + k < 16 by omega,
    getLsbD_past x (show 4 ≤ 12 + k - 8 by omega), getLsbD_past y (show 4 ≤ 12 + k - 4 by omega),
    getLsbD_past n (show 4 ≤ 12 + k by omega)]

@[simp] theorem x_formatXYN (c : Nibble) (x y : Reg) (n : Nibble) :
    (formatXYN c x y n).extractLsb' 8 4 = x := by
  ext k hk
  simp [formatXYN, BitVec.getLsbD_eq_getElem hk, show 8 + k < 16 by omega, show 8 + k < 12 by omega,
    getLsbD_past y (show 4 ≤ 8 + k - 4 by omega), getLsbD_past n (show 4 ≤ 8 + k by omega)]

@[simp] theorem y_formatXYN (c : Nibble) (x y : Reg) (n : Nibble) :
    (formatXYN c x y n).extractLsb' 4 4 = y := by
  ext k hk
  simp [formatXYN, BitVec.getLsbD_eq_getElem hk, show 4 + k < 16 by omega, show 4 + k < 12 by omega,
    show 4 + k < 8 by omega]

@[simp] theorem n_formatXYN (c : Nibble) (x y : Reg) (n : Nibble) :
    (formatXYN c x y n).extractLsb' 0 4 = n := by
  ext k hk
  simp [formatXYN, show k < 16 by omega, show k < 12 by omega,
    show k < 8 by omega, hk]

/-- A word is put together from its two bytes. -/
@[simp] theorem wordOfBytes_bytes (w : Word) : wordOfBytes (highByte w) (lowByte w) = w := by
  ext k hk
  by_cases h : k < 8
  · simp [wordOfBytes, highByte, lowByte, h, hk]
  · simp [wordOfBytes, highByte, lowByte, h, hk, show k - 8 < 8 by omega,
      show 8 + (k - 8) = k by omega]

/-- The value of a word is its high byte times 256 plus its low byte (20_memory.md R43). -/
theorem toNat_wordOfBytes (hi lo : Byte) :
    (wordOfBytes hi lo).toNat = hi.toNat * 256 + lo.toNat := by
  have hh := hi.isLt
  have hl := lo.isLt
  simp only [wordOfBytes, BitVec.toNat_or, BitVec.toNat_shiftLeft, BitVec.toNat_setWidth]
  rw [Nat.mod_eq_of_lt (show hi.toNat < 2 ^ 16 by omega), Nat.mod_eq_of_lt (show lo.toNat < 2 ^ 16 by omega),
    Nat.mod_eq_of_lt (by rw [Nat.shiftLeft_eq]; omega),
    ← Nat.shiftLeft_add_eq_or_of_lt (show lo.toNat < 2 ^ 8 by omega), Nat.shiftLeft_eq]

@[simp] theorem tableWord_toNat (w : Word) : tableWord 16 w.toNat = w := by
  simp only [tableWord, Nat.mod_eq_of_lt w.isLt, BitVec.ofNat_toNat, BitVec.setWidth_eq]

end Sys2Proof
end

