-- ==== Sys2Proof/Laws/Display.lean ====
section
/-! SUPPORT. The blit of Machine/Display.lean in terms of pixels (44_display.md R171): what one byte, one
row and a whole sprite do to every pixel, and when they report a collision. -/

namespace Sys2Proof.Machine

/-- Whether a sprite byte whose left pixel is at column `x0` covers column `c` with a set bit. -/
def rowBit (x0 : Nat) (row : Byte) (c : Fin 64) : Bool :=
  decide ((c.val + 64 - x0) % 64 < 8) && row.getLsbD (7 - (c.val + 64 - x0) % 64)

/-- Whether a sprite from row `y` on covers the pixel (c, r) with a set bit. -/
def spriteBit (x0 y : Nat) (rows : List Byte) (c : Fin 64) (r : Fin 32) : Bool :=
  decide (y ≤ r.val) && rowBit x0 (rows.getD (r.val - y) 0) c

theorem blitByte_getElem (r : Fin 32) (c : Fin 8) (p : Byte) (d : Canvas) (a : Nat) (ha : a < 256) :
    (blitByte r c p d).fb[a] = if 8 * r.val + c.val = a then d.fb[a] ^^^ p else d.fb[a] := by
  simp only [blitByte, Vector.getElem_set]
  split
  · next h => subst h; rfl
  · rfl

/-- One byte XORed: the pixels of that byte whose bit is set in `p` are inverted. -/
theorem pixel_blitByte (r : Fin 32) (b : Fin 8) (p : Byte) (d : Canvas) (c : Fin 64) (r' : Fin 32) :
    pixel (blitByte r b p d).fb c r' =
      (pixel d.fb c r' ^^ (decide (r' = r ∧ c.val / 8 = b.val) && p.getLsbD (7 - c.val % 8))) := by
  simp only [pixel, blitByte_getElem]
  by_cases h : r' = r ∧ c.val / 8 = b.val
  · obtain ⟨rfl, hb⟩ := h
    simp [hb]
  · have : ¬ 8 * r.val + b.val = 8 * r'.val + c.val / 8 := by
      intro he
      apply h
      have := c.isLt; have := b.isLt
      exact ⟨Fin.ext (by omega), by omega⟩
    simp [this, h]

theorem byte_ne_zero_iff (b : Byte) : (b != 0) = true ↔ ∃ k < 8, b.getLsbD k = true := by
  rw [bne_iff_ne]
  constructor
  · intro h
    by_contra hno
    apply h
    ext k hk
    rw [← BitVec.getLsbD_eq_getElem hk]
    simpa using fun hb => hno ⟨k, hk, hb⟩
  · rintro ⟨k, -, hb⟩ rfl
    simp at hb

/-- One byte XORed: a collision is a lit pixel of that byte whose bit is set in `p`. -/
theorem collision_blitByte (r : Fin 32) (b : Fin 8) (p : Byte) (d : Canvas) :
    (blitByte r b p d).collision = true ↔ d.collision = true ∨
      ∃ c : Fin 64, c.val / 8 = b.val ∧ pixel d.fb c r = true ∧ p.getLsbD (7 - c.val % 8) = true := by
  simp only [blitByte, Bool.or_eq_true]
  refine or_congr_right ?_
  rw [byte_ne_zero_iff]
  constructor
  · rintro ⟨k, hk, h⟩
    have hb := b.isLt
    refine ⟨⟨8 * b.val + (7 - k), by omega⟩, by simp only; omega, ?_⟩
    have h1 : (8 * b.val + (7 - k)) / 8 = b.val := by omega
    have h2 : 7 - (8 * b.val + (7 - k)) % 8 = k := by omega
    simp only [pixel, h1, h2]
    simp only [BitVec.getLsbD_and, BitVec.getLsbD_not, BitVec.getLsbD_xor, hk, decide_true,
      Bool.true_and] at h
    revert h
    cases d.fb[8 * r.val + b.val].getLsbD k <;> cases p.getLsbD k <;> simp
  · rintro ⟨c, hc, h1, h2⟩
    refine ⟨7 - c.val % 8, by omega, ?_⟩
    simp only [pixel, hc] at h1
    simp only [BitVec.getLsbD_and, BitVec.getLsbD_not, BitVec.getLsbD_xor, h1, h2]
    simp
    omega

/-- The two parts of a sprite byte together cover a column exactly where the byte does. -/
theorem rowBit_parts {x0 : Nat} (hx : x0 < 64) (row : Byte) (c : Fin 64) :
    (decide (c.val / 8 = x0 / 8) && (row >>> (x0 % 8)).getLsbD (7 - c.val % 8) ^^
      (decide (c.val / 8 = (x0 / 8 + 1) % 8) && (row <<< (8 - x0 % 8)).getLsbD (7 - c.val % 8))) =
      rowBit x0 row c := by
  have hc := c.isLt
  simp only [rowBit, BitVec.getLsbD_ushiftRight, BitVec.getLsbD_shiftLeft]
  by_cases h0 : c.val / 8 = x0 / 8
  · have h1 : ¬ c.val / 8 = (x0 / 8 + 1) % 8 := by omega
    rw [decide_eq_true h0, decide_eq_false h1, Bool.true_and, Bool.false_and, Bool.xor_false]
    by_cases hq : x0 % 8 ≤ c.val % 8
    · have hj : (c.val + 64 - x0) % 64 = c.val % 8 - x0 % 8 := by omega
      rw [hj, show x0 % 8 + (7 - c.val % 8) = 7 - (c.val % 8 - x0 % 8) by omega]
      simp only [show c.val % 8 - x0 % 8 < 8 by omega, decide_true, Bool.true_and]
    · have hj : ¬ (c.val + 64 - x0) % 64 < 8 := by omega
      rw [BitVec.getLsbD_of_ge _ _ (by omega)]
      simp [hj]
  · rw [decide_eq_false h0, Bool.false_and, Bool.false_xor]
    by_cases h1 : c.val / 8 = (x0 / 8 + 1) % 8
    · rw [decide_eq_true h1, Bool.true_and]
      by_cases hq : c.val % 8 < x0 % 8
      · have hj : (c.val + 64 - x0) % 64 = c.val % 8 + 8 - x0 % 8 := by omega
        rw [hj, show 7 - c.val % 8 - (8 - x0 % 8) = 7 - (c.val % 8 + 8 - x0 % 8) by omega]
        simp only [show c.val % 8 + 8 - x0 % 8 < 8 by omega, show 7 - c.val % 8 < 8 by omega,
          show ¬ 7 - c.val % 8 < 8 - x0 % 8 by omega, decide_true, decide_false, Bool.not_false,
          Bool.true_and]
      · have hj : ¬ (c.val + 64 - x0) % 64 < 8 := by omega
        have hs : 7 - c.val % 8 < 8 - x0 % 8 := by omega
        simp [hj, hs]
    · have hj : ¬ (c.val + 64 - x0) % 64 < 8 := by omega
      simp [h1, hj]

/-- One sprite row XORed: the covered pixels of that row are inverted. -/
theorem pixel_blitRow {x0 : Nat} (hx : x0 < 64) (r : Fin 32) (row : Byte) (d : Canvas) (c : Fin 64)
    (r' : Fin 32) :
    pixel (blitRow x0 r row d).fb c r' =
      (pixel d.fb c r' ^^ (decide (r' = r) && rowBit x0 row c)) := by
  simp only [blitRow, pixel_blitByte, Fin.val_ofNat, Nat.mod_eq_of_lt (show x0 / 8 < 8 by omega)]
  rw [← rowBit_parts hx]
  by_cases h : r' = r <;> simp [h]

/-- One sprite row XORed: a collision is a lit pixel of that row that is covered. -/
theorem collision_blitRow {x0 : Nat} (hx : x0 < 64) (r : Fin 32) (row : Byte) (d : Canvas) :
    (blitRow x0 r row d).collision = true ↔ d.collision = true ∨
      ∃ c : Fin 64, pixel d.fb c r = true ∧ rowBit x0 row c = true := by
  simp only [blitRow, collision_blitByte, pixel_blitByte, Fin.val_ofNat,
    Nat.mod_eq_of_lt (show x0 / 8 < 8 by omega), or_assoc]
  refine or_congr_right ?_
  have key : ∀ c : Fin 64, c.val / 8 = (x0 / 8 + 1) % 8 → ¬ c.val / 8 = x0 / 8 := by
    intro c; have := c.isLt; omega
  constructor
  · rintro (⟨c, h, hp, hb⟩ | ⟨c, h, hp, hb⟩) <;> refine ⟨c, ?_⟩ <;> rw [← rowBit_parts hx]
    · have hne : ¬ c.val / 8 = (x0 / 8 + 1) % 8 := by omega
      rw [decide_eq_true h, decide_eq_false hne, hb]
      exact ⟨hp, rfl⟩
    · have hne := key c h
      rw [decide_eq_false (by simp [hne]), Bool.false_and, Bool.xor_false] at hp
      rw [decide_eq_true h, decide_eq_false hne, hb]
      exact ⟨hp, rfl⟩
  · rintro ⟨c, hp, hb⟩
    rw [← rowBit_parts hx] at hb
    by_cases h0 : c.val / 8 = x0 / 8
    · have hne : ¬ c.val / 8 = (x0 / 8 + 1) % 8 := by omega
      rw [decide_eq_true h0, decide_eq_false hne, Bool.true_and, Bool.false_and, Bool.xor_false] at hb
      exact .inl ⟨c, h0, hp, hb⟩
    · by_cases h1 : c.val / 8 = (x0 / 8 + 1) % 8
      · rw [decide_eq_false h0, decide_eq_true h1, Bool.true_and, Bool.false_and, Bool.false_xor] at hb
        exact .inr ⟨c, h1, by simpa [h0] using hp, hb⟩
      · rw [decide_eq_false h0, decide_eq_false h1] at hb
        simp at hb

theorem spriteBit_nil (x0 y : Nat) (c : Fin 64) (r : Fin 32) : spriteBit x0 y [] c r = false := by
  simp [spriteBit, rowBit]

theorem spriteBit_cons (x0 y : Nat) (row : Byte) (rows : List Byte) (c : Fin 64) (r : Fin 32) :
    spriteBit x0 y (row :: rows) c r =
      ((decide (r.val = y) && rowBit x0 row c) ^^ spriteBit x0 (y + 1) rows c r) := by
  simp only [spriteBit]
  rcases Nat.lt_trichotomy r.val y with h | h | h
  · simp [show ¬ y ≤ r.val by omega, show ¬ r.val = y by omega, show ¬ y + 1 ≤ r.val by omega]
  · simp [h]
  · rw [show r.val - y = (r.val - (y + 1)) + 1 by omega]
    simp [show y ≤ r.val by omega, show ¬ r.val = y by omega, show y + 1 ≤ r.val by omega]

/-- A whole sprite XORed: the covered pixels are inverted, rows past 31 being dropped. -/
theorem pixel_blitRows {x0 : Nat} (hx : x0 < 64) (y : Nat) (rows : List Byte) (d : Canvas)
    (c : Fin 64) (r : Fin 32) :
    pixel (blitRows x0 y rows d).fb c r = (pixel d.fb c r ^^ spriteBit x0 y rows c r) := by
  induction rows generalizing y d with
  | nil => simp [blitRows, spriteBit_nil]
  | cons row rows ih =>
    rw [blitRows, ih, spriteBit_cons, ← Bool.xor_assoc]
    congr 1
    split
    · next h => simp [pixel_blitRow hx, Fin.ext_iff]
    · next h => simp [show ¬ r.val = y by omega]

/-- A whole sprite XORed: a collision is a lit pixel that is covered. -/
theorem collision_blitRows {x0 : Nat} (hx : x0 < 64) (y : Nat) (rows : List Byte) (d : Canvas) :
    (blitRows x0 y rows d).collision = true ↔ d.collision = true ∨
      ∃ (c : Fin 64) (r : Fin 32), pixel d.fb c r = true ∧ spriteBit x0 y rows c r = true := by
  induction rows generalizing y d with
  | nil => simp [blitRows, spriteBit_nil]
  | cons row rows ih =>
    have hlow : ∀ (c : Fin 64) (r : Fin 32), spriteBit x0 (y + 1) rows c r = true → ¬ r.val = y := by
      intro c r h
      simp only [spriteBit, Bool.and_eq_true, decide_eq_true_eq] at h
      omega
    rw [blitRows, ih]
    split
    · next hy =>
      simp only [collision_blitRow hx, pixel_blitRow hx, spriteBit_cons, or_assoc]
      refine or_congr_right ?_
      constructor
      · rintro (⟨c, hp, hb⟩ | ⟨c, r, hp, hb⟩)
        · refine ⟨c, ⟨y, hy⟩, hp, ?_⟩
          have : spriteBit x0 (y + 1) rows c ⟨y, hy⟩ = false := by simp [spriteBit]
          simp [hb, this]
        · have := hlow c r hb
          refine ⟨c, r, ?_, by simp [this, hb]⟩
          simpa [Fin.ext_iff, this] using hp
      · rintro ⟨c, r, hp, hb⟩
        by_cases h : r.val = y
        · subst h
          have : spriteBit x0 (r.val + 1) rows c r = false := by simp [spriteBit]
          exact .inl ⟨c, hp, by simpa [this] using hb⟩
        · refine .inr ⟨c, r, ?_, by simpa [h] using hb⟩
          simpa [Fin.ext_iff, h] using hp
    · next hy =>
      refine or_congr_right ?_
      have : ∀ r : Fin 32, ¬ r.val = y := fun r => by omega
      simp [spriteBit_cons, this]

/-- Two framebuffers with the same pixels are the same. -/
theorem framebuffer_ext {f g : Framebuffer} (h : ∀ c r, pixel f c r = pixel g c r) : f = g := by
  ext a ha k hk
  have := h ⟨8 * (a % 8) + (7 - k), by omega⟩ ⟨a / 8, by omega⟩
  have h1 : 8 * (a / 8) + (8 * (a % 8) + (7 - k)) / 8 = a := by omega
  have h2 : 7 - (8 * (a % 8) + (7 - k)) % 8 = k := by omega
  simp only [pixel, h1, h2] at this
  rw [BitVec.getLsbD_eq_getElem hk, BitVec.getLsbD_eq_getElem hk] at this
  rw [this]

end Sys2Proof.Machine
end

