-- ==== Sys2Proof/Laws/Memory.lean ====
section
/-! SUPPORT. What the operations over memory do (20_memory.md R41, R42, R46): a read after a write, the
canonical form kept by every operation, and the two block transfers, each said once. -/

namespace Sys2Proof.Machine

theorem Memory.mem_insert {a : Nat} {b : Byte} {m : Memory} {c : Host.Cell}
    (h : c ∈ Memory.insert a b m) : c = (a, b) ∨ c ∈ m := by
  induction m with
  | nil => simpa [Memory.insert] using h
  | cons e rest ih =>
    simp only [Memory.insert] at h
    split at h <;> simp only [List.mem_cons] at h ⊢
    · exact h
    · rcases h with h | h
      · exact .inr (.inl h)
      · exact (ih h).imp_right .inr

theorem Memory.read_insert {a : Nat} {b : Byte} {m : Memory} (h : ∀ e ∈ m, e.1 ≠ a) (c : Nat) :
    Memory.read (Memory.insert a b m) c = if c = a then b else Memory.read m c := by
  induction m with
  | nil => simp [Memory.insert, Memory.read, eq_comm]
  | cons e rest ih =>
    have he : e.1 ≠ a := h e (by simp)
    have ih := ih fun x hx => h x (by simp [hx])
    simp only [Memory.insert]
    split
    · simp [Memory.read, eq_comm]
    · simp only [Memory.read, ih]
      split <;> split <;> simp_all

theorem Memory.read_erase (m : Memory) (a c : Nat) :
    Memory.read (m.filter (fun e => e.1 != a)) c =
      if c = a then Memory.unlisted a else Memory.read m c := by
  induction m with
  | nil => split <;> simp_all [Memory.read]
  | cons e rest ih =>
    by_cases hc : c = a
    · subst hc
      rw [if_pos rfl] at ih ⊢
      by_cases he : e.1 = c <;> simp [he, ih, Memory.read]
    · rw [if_neg hc] at ih ⊢
      by_cases he : e.1 = a
      · simp [he, ih, Memory.read, Ne.symm hc]
      · simp [he, ih, Memory.read]

/-- A read after a write: the byte written at its address, every other byte as before. -/
@[simp] theorem Memory.read_write (m : Memory) (a : Nat) (b : Byte) (c : Nat) :
    Memory.read (Memory.write m a b) c = if c = a then b else Memory.read m c := by
  simp only [Memory.write]
  split
  · next hb => rw [Memory.read_erase, hb]
  · rw [Memory.read_insert (fun e he => by simpa using (List.mem_filter.1 he).2), Memory.read_erase]
    split <;> rfl

theorem Memory.pairwise_insert {a : Nat} {b : Byte} {m : Memory} (h : ∀ e ∈ m, e.1 ≠ a)
    (hm : m.Pairwise (fun c d => c.1 < d.1)) :
    (Memory.insert a b m).Pairwise (fun c d => c.1 < d.1) := by
  induction m with
  | nil => simp [Memory.insert]
  | cons e rest ih =>
    have he : e.1 ≠ a := h e (by simp)
    obtain ⟨hlt, hrest⟩ := List.pairwise_cons.1 hm
    simp only [Memory.insert]
    split
    · next hae =>
      refine List.pairwise_cons.2 ⟨fun d hd => ?_, hm⟩
      rcases List.mem_cons.1 hd with rfl | hd
      · exact hae
      · exact Nat.lt_trans hae (hlt d hd)
    · refine List.pairwise_cons.2 ⟨fun d hd => ?_, ih (fun x hx => h x (by simp [hx])) hrest⟩
      rcases Memory.mem_insert hd with rfl | hd
      · simp only; omega
      · exact hlt d hd

/-- A write inside the address space keeps the canonical form. -/
theorem Memory.wf_write {m : Memory} (hm : m.wf) {a : Nat} (ha : a < memSize) (b : Byte) :
    (Memory.write m a b).wf := by
  have hsub : ∀ e ∈ m.filter (fun e => e.1 != a), e ∈ m := fun e he => (List.mem_filter.1 he).1
  have hpair := hm.1.filter (fun e => e.1 != a)
  simp only [Memory.write]
  split
  · exact ⟨hpair, fun e he => hm.2 e (hsub e he)⟩
  · next hb =>
    refine ⟨Memory.pairwise_insert (fun e he => by simpa using (List.mem_filter.1 he).2) hpair,
      fun e he => ?_⟩
    rcases Memory.mem_insert he with rfl | he
    · exact ⟨ha, hb⟩
    · exact hm.2 e (hsub e he)

theorem Memory.wf_reset : State.reset.mem.wf := by decide

/-- The bytes of a block lie at its addresses; every other byte is as before. -/
theorem Memory.read_load (m : Memory) (a : Nat) (bs : List Byte) (c : Nat) :
    Memory.read (Memory.load m a bs) c =
      if a ≤ c ∧ c < a + bs.length then bs.getD (c - a) 0 else Memory.read m c := by
  induction bs generalizing m a with
  | nil =>
    rw [if_neg (by simp only [List.length_nil]; omega)]
    rfl
  | cons b bs ih =>
    simp only [Memory.load, ih, Memory.read_write, List.length_cons]
    rcases Nat.lt_trichotomy c a with h | rfl | h
    · rw [if_neg (by omega), if_neg (by omega), if_neg (by omega)]
    · simp
    · obtain ⟨d, rfl⟩ : ∃ d, c = a + 1 + d := ⟨c - (a + 1), by omega⟩
      have h1 : a + 1 + d - (a + 1) = d := by omega
      have h2 : a + 1 + d - a = d + 1 := by omega
      have h3 : ¬ a + 1 + d = a := by omega
      rw [h1, h2, if_neg h3]
      by_cases hd : d < bs.length
      · rw [if_pos (by omega), if_pos (by omega)]
        simp
      · rw [if_neg (by omega), if_neg (by omega)]

theorem Memory.wf_load {m : Memory} (hm : m.wf) {a : Nat} {bs : List Byte}
    (h : a + bs.length ≤ memSize) : (Memory.load m a bs).wf := by
  induction bs generalizing m a with
  | nil => exact hm
  | cons b bs ih =>
    simp only [List.length_cons] at h
    exact ih (Memory.wf_write hm (by omega) b) (by omega)

/-- A block read inside the address space gives the bytes of its addresses. -/
theorem readBytes_ok (m : Memory) {a n : Nat} (h : a + n ≤ memSize) :
    readBytes m a n = .ok ((List.range' a n).map (Memory.read m)) := by
  induction n generalizing a with
  | zero => rfl
  | succ n ih =>
    have ha : a < memSize := by omega
    simp only [readBytes, memRead, ha, if_true, ih (show a + 1 + n ≤ memSize by omega)]
    rfl

/-- A block read that leaves the address space raises at its first address outside. -/
theorem readBytes_error (m : Memory) {a n : Nat} (hn : 0 < n) (h : memSize < a + n) :
    readBytes m a n = .error (.memoryOutOfRange (max a memSize)) := by
  induction n generalizing a with
  | zero => omega
  | succ n ih =>
    by_cases ha : a < memSize
    · simp only [readBytes, memRead, ha, if_true, ih (by omega) (show memSize < a + 1 + n by omega)]
      rw [show max (a + 1) memSize = max a memSize by omega]
    · simp only [readBytes, memRead, ha, if_false]
      rw [show max a memSize = a by omega]

/-- A block write inside the address space stores its bytes. -/
theorem writeBytes_ok (m : Memory) {a : Nat} {bs : List Byte} (h : a + bs.length ≤ memSize) :
    writeBytes m a bs = .ok (Memory.load m a bs) := by
  induction bs generalizing m a with
  | nil => rfl
  | cons b bs ih =>
    simp only [List.length_cons] at h
    have ha : a < memSize := by omega
    simp only [writeBytes, memWrite, ha, if_true, Memory.load]
    exact ih _ (by omega)

/-- A block write that leaves the address space raises at its first address outside. -/
theorem writeBytes_error (m : Memory) {a : Nat} {bs : List Byte} (hn : bs ≠ [])
    (h : memSize < a + bs.length) :
    writeBytes m a bs = .error (.memoryOutOfRange (max a memSize)) := by
  induction bs generalizing m a with
  | nil => exact absurd rfl hn
  | cons b bs ih =>
    simp only [List.length_cons] at h
    by_cases ha : a < memSize
    · simp only [writeBytes, memWrite, ha, if_true]
      rw [ih _ (by intro hb; simp only [hb, List.length_nil] at h; omega) (by omega),
        show max (a + 1) memSize = max a memSize by omega]
    · simp only [writeBytes, memWrite, ha, if_false]
      rw [show max a memSize = a by omega]

theorem writeBytes_wf {m m' : Memory} {a : Nat} {bs : List Byte} (hm : m.wf)
    (h : writeBytes m a bs = .ok m') : m'.wf := by
  induction bs generalizing m a with
  | nil => cases h; exact hm
  | cons b bs ih =>
    simp only [writeBytes, memWrite] at h
    split at h
    · cases h
    · next heq =>
      split at heq
      · next ha => cases heq; exact ih (Memory.wf_write hm ha b) h
      · cases heq

theorem bootMemory_wf (p : ResetParams) {rom : List Byte} (h : rom.length ≤ romMax) :
    (bootMemory p rom).wf := by
  simp only [romMax, romBase, memSize] at h
  refine Memory.wf_load (Memory.wf_load (Memory.wf_load Memory.wf_reset ?_) ?_) ?_ <;>
    simp [romBase, memSize]
  omega

end Sys2Proof.Machine
end

