-- ==== Sys2Proof/Laws/Ops.lean ====
section
/-! SUPPORT. What each shared operation can do, said once: the push and the pop, the fetch, the checked
operands, and the placing of an instruction. -/

namespace Sys2Proof.Machine

/-- A push on a stack that is not full (41_control_flow.md R103). -/
theorem State.push_ok (a : Word) {s : State} (h : s.sp.val < 16) :
    s.push a = .ok { s with stk := s.stk.set s.sp.val a, sp := ⟨s.sp.val + 1, by omega⟩ } := by
  rw [State.push, dif_pos h]

/-- A push on a full stack (R103). -/
theorem State.push_full (a : Word) {s : State} (h : s.sp.val = 16) :
    s.push a = .error (.stackOverflow s.pc) := by
  rw [State.push, dif_neg (by omega)]

/-- A pop from a stack that is not empty (R101). -/
theorem State.pop_ok {s : State} (h : 0 < s.sp.val) :
    s.pop = .ok (s.stk[s.sp.val - 1], { s with sp := ⟨s.sp.val - 1, by omega⟩ }) := by
  rw [State.pop, dif_neg (by omega)]

/-- A pop from an empty stack (R101). -/
theorem State.pop_empty {s : State} (h : s.sp.val = 0) : s.pop = .error (.stackUnderflow s.pc) := by
  rw [State.pop, dif_pos h]

/-- A fetch that gives a word was made below 4095 and gives the two bytes there (20_memory.md R43). -/
theorem fetch_eq_ok {s : State} {w : Word} :
    fetch s = .ok w ↔ s.pc.toNat < 4095 ∧
      w = wordOfBytes (Memory.read s.mem s.pc.toNat) (Memory.read s.mem (s.pc.toNat + 1)) := by
  simp only [fetch]
  split <;> simp_all [eq_comm]

theorem fetch_error {s : State} (h : 4095 ≤ s.pc.toNat) :
    fetch s = .error (.memoryOutOfRange s.pc.toNat) := by
  rw [fetch, if_neg (by omega)]

theorem digitOperand_ok {b : Byte} (h : b.toNat ≤ 15) : digitOperand b = .ok b.toNat := by
  rw [digitOperand, if_neg (by omega)]

theorem digitOperand_error {b : Byte} (h : 15 < b.toNat) :
    digitOperand b = .error (.digitOutOfRange b) := by
  rw [digitOperand, if_pos h]

theorem keyOperand_ok {b : Byte} (h : b.toNat ≤ 15) : keyOperand b = .ok (b.setWidth 4) := by
  rw [keyOperand, if_neg (by omega)]

theorem keyOperand_error {b : Byte} (h : 15 < b.toNat) : keyOperand b = .error (.keyOutOfRange b) := by
  rw [keyOperand, if_pos h]

@[simp] theorem effectiveAddr_zero (s : State) : effectiveAddr s 0 = s.i.toNat := rfl

@[simp] theorem zextAddr_toNat (nnn : Addr) : (zextAddr nnn).toNat = nnn.toNat := by
  have := nnn.isLt
  simp only [zextAddr, BitVec.toNat_setWidth]
  omega

/-- nnn + V0 does not wrap in 16 bits (41_control_flow.md R108). -/
@[simp] theorem offsetTarget_toNat (nnn : Addr) (s : State) :
    (offsetTarget nnn s).toNat = nnn.toNat + (s.reg 0).toNat := by
  have h1 := nnn.isLt
  have h2 := (s.reg 0).isLt
  simp only [offsetTarget, zextByte, BitVec.toNat_add, zextAddr_toNat, BitVec.toNat_setWidth]
  omega

theorem State.readyToFetch_pc_lt (s : State) : s.readyToFetch.pc.toNat < 4095 := by
  simp only [State.readyToFetch]
  split
  · assumption
  · decide

/-- An instruction placed is the instruction fetched. -/
theorem fetch_placeInstruction (w : Word) (s : State) : fetch (s.placeInstruction w) = .ok w := by
  have h := s.readyToFetch_pc_lt
  rw [fetch_eq_ok]
  refine ⟨h, ?_⟩
  simp only [State.placeInstruction, State.setMem, placeWord, Memory.read_write]
  simp [wordOfBytes_bytes]

theorem placeWord_wf {m : Memory} (hm : m.wf) {a : Nat} (h : a + 1 < memSize) (w : Word) :
    (placeWord m a w).wf :=
  Memory.wf_write (Memory.wf_write hm (by omega) _) h _

end Sys2Proof.Machine
end

