-- ==== Sys2Proof/Laws/PerInstr.lean ====
section
/-! SUPPORT. The one family of statements made instruction by instruction: the word of an instruction is
none of the unknown words of 30_encoding.md R69. -/

namespace Sys2Proof.Laws.WellFormedEncoding

/-- The encoding of `i` is a well-formed instruction word. -/
def Statement (i : Instr) : Prop := wellFormedWord (encodeWord i) = true

theorem cls : Statement (.cls) := by
  simp [Statement, wellFormedWord, encodeWord]

theorem ret : Statement (.ret) := by
  simp [Statement, wellFormedWord, encodeWord]

theorem jp (nnn : Addr) : Statement (.jp nnn) := by
  simp [Statement, wellFormedWord, encodeWord]

theorem call (nnn : Addr) : Statement (.call nnn) := by
  simp [Statement, wellFormedWord, encodeWord]

theorem seVxNn (x : Reg) (nn : Byte) : Statement (.seVxNn x nn) := by
  simp [Statement, wellFormedWord, encodeWord]

theorem sneVxNn (x : Reg) (nn : Byte) : Statement (.sneVxNn x nn) := by
  simp [Statement, wellFormedWord, encodeWord]

theorem seVxVy (x y : Reg) : Statement (.seVxVy x y) := by
  simp [Statement, wellFormedWord, encodeWord]

theorem ldVxNn (x : Reg) (nn : Byte) : Statement (.ldVxNn x nn) := by
  simp [Statement, wellFormedWord, encodeWord]

theorem addVxNn (x : Reg) (nn : Byte) : Statement (.addVxNn x nn) := by
  simp [Statement, wellFormedWord, encodeWord]

theorem ldVxVy (x y : Reg) : Statement (.ldVxVy x y) := by
  simp [Statement, wellFormedWord, encodeWord]

theorem or (x y : Reg) : Statement (.or x y) := by
  simp [Statement, wellFormedWord, encodeWord]

theorem and (x y : Reg) : Statement (.and x y) := by
  simp [Statement, wellFormedWord, encodeWord]

theorem xor (x y : Reg) : Statement (.xor x y) := by
  simp [Statement, wellFormedWord, encodeWord]

theorem addVxVy (x y : Reg) : Statement (.addVxVy x y) := by
  simp [Statement, wellFormedWord, encodeWord]

theorem sub (x y : Reg) : Statement (.sub x y) := by
  simp [Statement, wellFormedWord, encodeWord]

theorem shr (x y : Reg) : Statement (.shr x y) := by
  simp [Statement, wellFormedWord, encodeWord]

theorem subn (x y : Reg) : Statement (.subn x y) := by
  simp [Statement, wellFormedWord, encodeWord]

theorem shl (x y : Reg) : Statement (.shl x y) := by
  simp [Statement, wellFormedWord, encodeWord]

theorem sneVxVy (x y : Reg) : Statement (.sneVxVy x y) := by
  simp [Statement, wellFormedWord, encodeWord]

theorem ldINnn (nnn : Addr) : Statement (.ldINnn nnn) := by
  simp [Statement, wellFormedWord, encodeWord]

theorem jpV0Nnn (nnn : Addr) : Statement (.jpV0Nnn nnn) := by
  simp [Statement, wellFormedWord, encodeWord]

theorem rnd (x : Reg) (nn : Byte) : Statement (.rnd x nn) := by
  simp [Statement, wellFormedWord, encodeWord]

theorem drw (x y : Reg) (n : Nibble) : Statement (.drw x y n) := by
  simp [Statement, wellFormedWord, encodeWord]

theorem skp (x : Reg) : Statement (.skp x) := by
  simp [Statement, wellFormedWord, encodeWord]

theorem sknp (x : Reg) : Statement (.sknp x) := by
  simp [Statement, wellFormedWord, encodeWord]

theorem ldVxDt (x : Reg) : Statement (.ldVxDt x) := by
  simp [Statement, wellFormedWord, encodeWord]

theorem ldVxK (x : Reg) : Statement (.ldVxK x) := by
  simp [Statement, wellFormedWord, encodeWord]

theorem ldDtVx (x : Reg) : Statement (.ldDtVx x) := by
  simp [Statement, wellFormedWord, encodeWord]

theorem ldStVx (x : Reg) : Statement (.ldStVx x) := by
  simp [Statement, wellFormedWord, encodeWord]

theorem addIVx (x : Reg) : Statement (.addIVx x) := by
  simp [Statement, wellFormedWord, encodeWord]

theorem ldFVx (x : Reg) : Statement (.ldFVx x) := by
  simp [Statement, wellFormedWord, encodeWord]

theorem ldBVx (x : Reg) : Statement (.ldBVx x) := by
  simp [Statement, wellFormedWord, encodeWord]

theorem ldMemVx (x : Reg) : Statement (.ldMemVx x) := by
  simp [Statement, wellFormedWord, encodeWord]

theorem ldVxMem (x : Reg) : Statement (.ldVxMem x) := by
  simp [Statement, wellFormedWord, encodeWord]

end Sys2Proof.Laws.WellFormedEncoding
end

