-- ==== Sys2Proof/Laws/State.lean ====
section
/-! SUPPORT. One lemma for each field under each named update of the state, true by rfl, so that no proof
unfolds a record update; then how a register reads after each update. -/

namespace Sys2Proof.Machine

variable (s : State)

@[simp] theorem State.setReg_v (x : Reg) (b : Byte) : (s.setReg x b).v = s.v.set x.toNat b := rfl
@[simp] theorem State.setReg_pc (x : Reg) (b : Byte) : (s.setReg x b).pc = s.pc := rfl
@[simp] theorem State.setReg_i (x : Reg) (b : Byte) : (s.setReg x b).i = s.i := rfl
@[simp] theorem State.setReg_stk (x : Reg) (b : Byte) : (s.setReg x b).stk = s.stk := rfl
@[simp] theorem State.setReg_sp (x : Reg) (b : Byte) : (s.setReg x b).sp = s.sp := rfl
@[simp] theorem State.setReg_dt (x : Reg) (b : Byte) : (s.setReg x b).dt = s.dt := rfl
@[simp] theorem State.setReg_st (x : Reg) (b : Byte) : (s.setReg x b).st = s.st := rfl
@[simp] theorem State.setReg_fb (x : Reg) (b : Byte) : (s.setReg x b).fb = s.fb := rfl
@[simp] theorem State.setReg_mem (x : Reg) (b : Byte) : (s.setReg x b).mem = s.mem := rfl
@[simp] theorem State.setReg_status (x : Reg) (b : Byte) : (s.setReg x b).status = s.status := rfl
@[simp] theorem State.setReg_cyc (x : Reg) (b : Byte) : (s.setReg x b).cyc = s.cyc := rfl
@[simp] theorem State.setReg_heldAsked (x : Reg) (b : Byte) : (s.setReg x b).heldAsked = s.heldAsked := rfl
@[simp] theorem State.setReg_freshAsked (x : Reg) (b : Byte) : (s.setReg x b).freshAsked = s.freshAsked := rfl
@[simp] theorem State.setReg_randomDrawn (x : Reg) (b : Byte) : (s.setReg x b).randomDrawn = s.randomDrawn := rfl
@[simp] theorem State.setReg_emitted (x : Reg) (b : Byte) : (s.setReg x b).emitted = s.emitted := rfl

@[simp] theorem State.setFlag_v (c : Bool) : (s.setFlag c).v = s.v.set 15 (if c then 1 else 0) := rfl
@[simp] theorem State.setFlag_pc (c : Bool) : (s.setFlag c).pc = s.pc := rfl
@[simp] theorem State.setFlag_i (c : Bool) : (s.setFlag c).i = s.i := rfl
@[simp] theorem State.setFlag_stk (c : Bool) : (s.setFlag c).stk = s.stk := rfl
@[simp] theorem State.setFlag_sp (c : Bool) : (s.setFlag c).sp = s.sp := rfl
@[simp] theorem State.setFlag_dt (c : Bool) : (s.setFlag c).dt = s.dt := rfl
@[simp] theorem State.setFlag_st (c : Bool) : (s.setFlag c).st = s.st := rfl
@[simp] theorem State.setFlag_fb (c : Bool) : (s.setFlag c).fb = s.fb := rfl
@[simp] theorem State.setFlag_mem (c : Bool) : (s.setFlag c).mem = s.mem := rfl
@[simp] theorem State.setFlag_status (c : Bool) : (s.setFlag c).status = s.status := rfl
@[simp] theorem State.setFlag_cyc (c : Bool) : (s.setFlag c).cyc = s.cyc := rfl
@[simp] theorem State.setFlag_heldAsked (c : Bool) : (s.setFlag c).heldAsked = s.heldAsked := rfl
@[simp] theorem State.setFlag_freshAsked (c : Bool) : (s.setFlag c).freshAsked = s.freshAsked := rfl
@[simp] theorem State.setFlag_randomDrawn (c : Bool) : (s.setFlag c).randomDrawn = s.randomDrawn := rfl
@[simp] theorem State.setFlag_emitted (c : Bool) : (s.setFlag c).emitted = s.emitted := rfl

@[simp] theorem State.finishWithFlag_v (x : Reg) (b : Byte) (c : Bool) : (s.finishWithFlag x b c).v = (s.v.set x.toNat b).set 15 (if c then 1 else 0) := rfl
@[simp] theorem State.finishWithFlag_pc (x : Reg) (b : Byte) (c : Bool) : (s.finishWithFlag x b c).pc = s.pc + 2 := rfl
@[simp] theorem State.finishWithFlag_i (x : Reg) (b : Byte) (c : Bool) : (s.finishWithFlag x b c).i = s.i := rfl
@[simp] theorem State.finishWithFlag_stk (x : Reg) (b : Byte) (c : Bool) : (s.finishWithFlag x b c).stk = s.stk := rfl
@[simp] theorem State.finishWithFlag_sp (x : Reg) (b : Byte) (c : Bool) : (s.finishWithFlag x b c).sp = s.sp := rfl
@[simp] theorem State.finishWithFlag_dt (x : Reg) (b : Byte) (c : Bool) : (s.finishWithFlag x b c).dt = s.dt := rfl
@[simp] theorem State.finishWithFlag_st (x : Reg) (b : Byte) (c : Bool) : (s.finishWithFlag x b c).st = s.st := rfl
@[simp] theorem State.finishWithFlag_fb (x : Reg) (b : Byte) (c : Bool) : (s.finishWithFlag x b c).fb = s.fb := rfl
@[simp] theorem State.finishWithFlag_mem (x : Reg) (b : Byte) (c : Bool) : (s.finishWithFlag x b c).mem = s.mem := rfl
@[simp] theorem State.finishWithFlag_status (x : Reg) (b : Byte) (c : Bool) : (s.finishWithFlag x b c).status = s.status := rfl
@[simp] theorem State.finishWithFlag_cyc (x : Reg) (b : Byte) (c : Bool) : (s.finishWithFlag x b c).cyc = s.cyc := rfl
@[simp] theorem State.finishWithFlag_heldAsked (x : Reg) (b : Byte) (c : Bool) : (s.finishWithFlag x b c).heldAsked = s.heldAsked := rfl
@[simp] theorem State.finishWithFlag_freshAsked (x : Reg) (b : Byte) (c : Bool) : (s.finishWithFlag x b c).freshAsked = s.freshAsked := rfl
@[simp] theorem State.finishWithFlag_randomDrawn (x : Reg) (b : Byte) (c : Bool) : (s.finishWithFlag x b c).randomDrawn = s.randomDrawn := rfl
@[simp] theorem State.finishWithFlag_emitted (x : Reg) (b : Byte) (c : Bool) : (s.finishWithFlag x b c).emitted = s.emitted := rfl

@[simp] theorem State.advance_v : s.advance.v = s.v := rfl
@[simp] theorem State.advance_pc : s.advance.pc = s.pc + 2 := rfl
@[simp] theorem State.advance_i : s.advance.i = s.i := rfl
@[simp] theorem State.advance_stk : s.advance.stk = s.stk := rfl
@[simp] theorem State.advance_sp : s.advance.sp = s.sp := rfl
@[simp] theorem State.advance_dt : s.advance.dt = s.dt := rfl
@[simp] theorem State.advance_st : s.advance.st = s.st := rfl
@[simp] theorem State.advance_fb : s.advance.fb = s.fb := rfl
@[simp] theorem State.advance_mem : s.advance.mem = s.mem := rfl
@[simp] theorem State.advance_status : s.advance.status = s.status := rfl
@[simp] theorem State.advance_cyc : s.advance.cyc = s.cyc := rfl
@[simp] theorem State.advance_heldAsked : s.advance.heldAsked = s.heldAsked := rfl
@[simp] theorem State.advance_freshAsked : s.advance.freshAsked = s.freshAsked := rfl
@[simp] theorem State.advance_randomDrawn : s.advance.randomDrawn = s.randomDrawn := rfl
@[simp] theorem State.advance_emitted : s.advance.emitted = s.emitted := rfl

@[simp] theorem State.skipIf_v (c : Bool) : (s.skipIf c).v = s.v := rfl
@[simp] theorem State.skipIf_pc (c : Bool) : (s.skipIf c).pc = s.pc + if c then 4 else 2 := rfl
@[simp] theorem State.skipIf_i (c : Bool) : (s.skipIf c).i = s.i := rfl
@[simp] theorem State.skipIf_stk (c : Bool) : (s.skipIf c).stk = s.stk := rfl
@[simp] theorem State.skipIf_sp (c : Bool) : (s.skipIf c).sp = s.sp := rfl
@[simp] theorem State.skipIf_dt (c : Bool) : (s.skipIf c).dt = s.dt := rfl
@[simp] theorem State.skipIf_st (c : Bool) : (s.skipIf c).st = s.st := rfl
@[simp] theorem State.skipIf_fb (c : Bool) : (s.skipIf c).fb = s.fb := rfl
@[simp] theorem State.skipIf_mem (c : Bool) : (s.skipIf c).mem = s.mem := rfl
@[simp] theorem State.skipIf_status (c : Bool) : (s.skipIf c).status = s.status := rfl
@[simp] theorem State.skipIf_cyc (c : Bool) : (s.skipIf c).cyc = s.cyc := rfl
@[simp] theorem State.skipIf_heldAsked (c : Bool) : (s.skipIf c).heldAsked = s.heldAsked := rfl
@[simp] theorem State.skipIf_freshAsked (c : Bool) : (s.skipIf c).freshAsked = s.freshAsked := rfl
@[simp] theorem State.skipIf_randomDrawn (c : Bool) : (s.skipIf c).randomDrawn = s.randomDrawn := rfl
@[simp] theorem State.skipIf_emitted (c : Bool) : (s.skipIf c).emitted = s.emitted := rfl

@[simp] theorem State.jump_v (a : Word) : (s.jump a).v = s.v := rfl
@[simp] theorem State.jump_pc (a : Word) : (s.jump a).pc = a := rfl
@[simp] theorem State.jump_i (a : Word) : (s.jump a).i = s.i := rfl
@[simp] theorem State.jump_stk (a : Word) : (s.jump a).stk = s.stk := rfl
@[simp] theorem State.jump_sp (a : Word) : (s.jump a).sp = s.sp := rfl
@[simp] theorem State.jump_dt (a : Word) : (s.jump a).dt = s.dt := rfl
@[simp] theorem State.jump_st (a : Word) : (s.jump a).st = s.st := rfl
@[simp] theorem State.jump_fb (a : Word) : (s.jump a).fb = s.fb := rfl
@[simp] theorem State.jump_mem (a : Word) : (s.jump a).mem = s.mem := rfl
@[simp] theorem State.jump_status (a : Word) : (s.jump a).status = s.status := rfl
@[simp] theorem State.jump_cyc (a : Word) : (s.jump a).cyc = s.cyc := rfl
@[simp] theorem State.jump_heldAsked (a : Word) : (s.jump a).heldAsked = s.heldAsked := rfl
@[simp] theorem State.jump_freshAsked (a : Word) : (s.jump a).freshAsked = s.freshAsked := rfl
@[simp] theorem State.jump_randomDrawn (a : Word) : (s.jump a).randomDrawn = s.randomDrawn := rfl
@[simp] theorem State.jump_emitted (a : Word) : (s.jump a).emitted = s.emitted := rfl

@[simp] theorem State.setI_v (a : Word) : (s.setI a).v = s.v := rfl
@[simp] theorem State.setI_pc (a : Word) : (s.setI a).pc = s.pc := rfl
@[simp] theorem State.setI_i (a : Word) : (s.setI a).i = a := rfl
@[simp] theorem State.setI_stk (a : Word) : (s.setI a).stk = s.stk := rfl
@[simp] theorem State.setI_sp (a : Word) : (s.setI a).sp = s.sp := rfl
@[simp] theorem State.setI_dt (a : Word) : (s.setI a).dt = s.dt := rfl
@[simp] theorem State.setI_st (a : Word) : (s.setI a).st = s.st := rfl
@[simp] theorem State.setI_fb (a : Word) : (s.setI a).fb = s.fb := rfl
@[simp] theorem State.setI_mem (a : Word) : (s.setI a).mem = s.mem := rfl
@[simp] theorem State.setI_status (a : Word) : (s.setI a).status = s.status := rfl
@[simp] theorem State.setI_cyc (a : Word) : (s.setI a).cyc = s.cyc := rfl
@[simp] theorem State.setI_heldAsked (a : Word) : (s.setI a).heldAsked = s.heldAsked := rfl
@[simp] theorem State.setI_freshAsked (a : Word) : (s.setI a).freshAsked = s.freshAsked := rfl
@[simp] theorem State.setI_randomDrawn (a : Word) : (s.setI a).randomDrawn = s.randomDrawn := rfl
@[simp] theorem State.setI_emitted (a : Word) : (s.setI a).emitted = s.emitted := rfl

@[simp] theorem State.setMem_v (m : Memory) : (s.setMem m).v = s.v := rfl
@[simp] theorem State.setMem_pc (m : Memory) : (s.setMem m).pc = s.pc := rfl
@[simp] theorem State.setMem_i (m : Memory) : (s.setMem m).i = s.i := rfl
@[simp] theorem State.setMem_stk (m : Memory) : (s.setMem m).stk = s.stk := rfl
@[simp] theorem State.setMem_sp (m : Memory) : (s.setMem m).sp = s.sp := rfl
@[simp] theorem State.setMem_dt (m : Memory) : (s.setMem m).dt = s.dt := rfl
@[simp] theorem State.setMem_st (m : Memory) : (s.setMem m).st = s.st := rfl
@[simp] theorem State.setMem_fb (m : Memory) : (s.setMem m).fb = s.fb := rfl
@[simp] theorem State.setMem_mem (m : Memory) : (s.setMem m).mem = m := rfl
@[simp] theorem State.setMem_status (m : Memory) : (s.setMem m).status = s.status := rfl
@[simp] theorem State.setMem_cyc (m : Memory) : (s.setMem m).cyc = s.cyc := rfl
@[simp] theorem State.setMem_heldAsked (m : Memory) : (s.setMem m).heldAsked = s.heldAsked := rfl
@[simp] theorem State.setMem_freshAsked (m : Memory) : (s.setMem m).freshAsked = s.freshAsked := rfl
@[simp] theorem State.setMem_randomDrawn (m : Memory) : (s.setMem m).randomDrawn = s.randomDrawn := rfl
@[simp] theorem State.setMem_emitted (m : Memory) : (s.setMem m).emitted = s.emitted := rfl

@[simp] theorem State.setFb_v (f : Framebuffer) : (s.setFb f).v = s.v := rfl
@[simp] theorem State.setFb_pc (f : Framebuffer) : (s.setFb f).pc = s.pc := rfl
@[simp] theorem State.setFb_i (f : Framebuffer) : (s.setFb f).i = s.i := rfl
@[simp] theorem State.setFb_stk (f : Framebuffer) : (s.setFb f).stk = s.stk := rfl
@[simp] theorem State.setFb_sp (f : Framebuffer) : (s.setFb f).sp = s.sp := rfl
@[simp] theorem State.setFb_dt (f : Framebuffer) : (s.setFb f).dt = s.dt := rfl
@[simp] theorem State.setFb_st (f : Framebuffer) : (s.setFb f).st = s.st := rfl
@[simp] theorem State.setFb_fb (f : Framebuffer) : (s.setFb f).fb = f := rfl
@[simp] theorem State.setFb_mem (f : Framebuffer) : (s.setFb f).mem = s.mem := rfl
@[simp] theorem State.setFb_status (f : Framebuffer) : (s.setFb f).status = s.status := rfl
@[simp] theorem State.setFb_cyc (f : Framebuffer) : (s.setFb f).cyc = s.cyc := rfl
@[simp] theorem State.setFb_heldAsked (f : Framebuffer) : (s.setFb f).heldAsked = s.heldAsked := rfl
@[simp] theorem State.setFb_freshAsked (f : Framebuffer) : (s.setFb f).freshAsked = s.freshAsked := rfl
@[simp] theorem State.setFb_randomDrawn (f : Framebuffer) : (s.setFb f).randomDrawn = s.randomDrawn := rfl
@[simp] theorem State.setFb_emitted (f : Framebuffer) : (s.setFb f).emitted = s.emitted := rfl

@[simp] theorem State.setDt_v (b : Byte) : (s.setDt b).v = s.v := rfl
@[simp] theorem State.setDt_pc (b : Byte) : (s.setDt b).pc = s.pc := rfl
@[simp] theorem State.setDt_i (b : Byte) : (s.setDt b).i = s.i := rfl
@[simp] theorem State.setDt_stk (b : Byte) : (s.setDt b).stk = s.stk := rfl
@[simp] theorem State.setDt_sp (b : Byte) : (s.setDt b).sp = s.sp := rfl
@[simp] theorem State.setDt_dt (b : Byte) : (s.setDt b).dt = b := rfl
@[simp] theorem State.setDt_st (b : Byte) : (s.setDt b).st = s.st := rfl
@[simp] theorem State.setDt_fb (b : Byte) : (s.setDt b).fb = s.fb := rfl
@[simp] theorem State.setDt_mem (b : Byte) : (s.setDt b).mem = s.mem := rfl
@[simp] theorem State.setDt_status (b : Byte) : (s.setDt b).status = s.status := rfl
@[simp] theorem State.setDt_cyc (b : Byte) : (s.setDt b).cyc = s.cyc := rfl
@[simp] theorem State.setDt_heldAsked (b : Byte) : (s.setDt b).heldAsked = s.heldAsked := rfl
@[simp] theorem State.setDt_freshAsked (b : Byte) : (s.setDt b).freshAsked = s.freshAsked := rfl
@[simp] theorem State.setDt_randomDrawn (b : Byte) : (s.setDt b).randomDrawn = s.randomDrawn := rfl
@[simp] theorem State.setDt_emitted (b : Byte) : (s.setDt b).emitted = s.emitted := rfl

@[simp] theorem State.setSt_v (b : Byte) : (s.setSt b).v = s.v := rfl
@[simp] theorem State.setSt_pc (b : Byte) : (s.setSt b).pc = s.pc := rfl
@[simp] theorem State.setSt_i (b : Byte) : (s.setSt b).i = s.i := rfl
@[simp] theorem State.setSt_stk (b : Byte) : (s.setSt b).stk = s.stk := rfl
@[simp] theorem State.setSt_sp (b : Byte) : (s.setSt b).sp = s.sp := rfl
@[simp] theorem State.setSt_dt (b : Byte) : (s.setSt b).dt = s.dt := rfl
@[simp] theorem State.setSt_st (b : Byte) : (s.setSt b).st = b := rfl
@[simp] theorem State.setSt_fb (b : Byte) : (s.setSt b).fb = s.fb := rfl
@[simp] theorem State.setSt_mem (b : Byte) : (s.setSt b).mem = s.mem := rfl
@[simp] theorem State.setSt_status (b : Byte) : (s.setSt b).status = s.status := rfl
@[simp] theorem State.setSt_cyc (b : Byte) : (s.setSt b).cyc = s.cyc := rfl
@[simp] theorem State.setSt_heldAsked (b : Byte) : (s.setSt b).heldAsked = s.heldAsked := rfl
@[simp] theorem State.setSt_freshAsked (b : Byte) : (s.setSt b).freshAsked = s.freshAsked := rfl
@[simp] theorem State.setSt_randomDrawn (b : Byte) : (s.setSt b).randomDrawn = s.randomDrawn := rfl
@[simp] theorem State.setSt_emitted (b : Byte) : (s.setSt b).emitted = s.emitted := rfl

@[simp] theorem State.setRegsFrom0_v (bs : List Byte) : (s.setRegsFrom0 bs).v = loadRegs s.v 0 bs := rfl
@[simp] theorem State.setRegsFrom0_pc (bs : List Byte) : (s.setRegsFrom0 bs).pc = s.pc := rfl
@[simp] theorem State.setRegsFrom0_i (bs : List Byte) : (s.setRegsFrom0 bs).i = s.i := rfl
@[simp] theorem State.setRegsFrom0_stk (bs : List Byte) : (s.setRegsFrom0 bs).stk = s.stk := rfl
@[simp] theorem State.setRegsFrom0_sp (bs : List Byte) : (s.setRegsFrom0 bs).sp = s.sp := rfl
@[simp] theorem State.setRegsFrom0_dt (bs : List Byte) : (s.setRegsFrom0 bs).dt = s.dt := rfl
@[simp] theorem State.setRegsFrom0_st (bs : List Byte) : (s.setRegsFrom0 bs).st = s.st := rfl
@[simp] theorem State.setRegsFrom0_fb (bs : List Byte) : (s.setRegsFrom0 bs).fb = s.fb := rfl
@[simp] theorem State.setRegsFrom0_mem (bs : List Byte) : (s.setRegsFrom0 bs).mem = s.mem := rfl
@[simp] theorem State.setRegsFrom0_status (bs : List Byte) : (s.setRegsFrom0 bs).status = s.status := rfl
@[simp] theorem State.setRegsFrom0_cyc (bs : List Byte) : (s.setRegsFrom0 bs).cyc = s.cyc := rfl
@[simp] theorem State.setRegsFrom0_heldAsked (bs : List Byte) : (s.setRegsFrom0 bs).heldAsked = s.heldAsked := rfl
@[simp] theorem State.setRegsFrom0_freshAsked (bs : List Byte) : (s.setRegsFrom0 bs).freshAsked = s.freshAsked := rfl
@[simp] theorem State.setRegsFrom0_randomDrawn (bs : List Byte) : (s.setRegsFrom0 bs).randomDrawn = s.randomDrawn := rfl
@[simp] theorem State.setRegsFrom0_emitted (bs : List Byte) : (s.setRegsFrom0 bs).emitted = s.emitted := rfl

@[simp] theorem State.countCycle_v : s.countCycle.v = s.v := rfl
@[simp] theorem State.countCycle_pc : s.countCycle.pc = s.pc := rfl
@[simp] theorem State.countCycle_i : s.countCycle.i = s.i := rfl
@[simp] theorem State.countCycle_stk : s.countCycle.stk = s.stk := rfl
@[simp] theorem State.countCycle_sp : s.countCycle.sp = s.sp := rfl
@[simp] theorem State.countCycle_dt : s.countCycle.dt = s.dt := rfl
@[simp] theorem State.countCycle_st : s.countCycle.st = s.st := rfl
@[simp] theorem State.countCycle_fb : s.countCycle.fb = s.fb := rfl
@[simp] theorem State.countCycle_mem : s.countCycle.mem = s.mem := rfl
@[simp] theorem State.countCycle_status : s.countCycle.status = s.status := rfl
@[simp] theorem State.countCycle_cyc : s.countCycle.cyc = s.cyc + 1 := rfl
@[simp] theorem State.countCycle_heldAsked : s.countCycle.heldAsked = s.heldAsked := rfl
@[simp] theorem State.countCycle_freshAsked : s.countCycle.freshAsked = s.freshAsked := rfl
@[simp] theorem State.countCycle_randomDrawn : s.countCycle.randomDrawn = s.randomDrawn := rfl
@[simp] theorem State.countCycle_emitted : s.countCycle.emitted = s.emitted := rfl

@[simp] theorem State.withFault_v (f : Fault) : (s.withFault f).v = s.v := rfl
@[simp] theorem State.withFault_pc (f : Fault) : (s.withFault f).pc = s.pc := rfl
@[simp] theorem State.withFault_i (f : Fault) : (s.withFault f).i = s.i := rfl
@[simp] theorem State.withFault_stk (f : Fault) : (s.withFault f).stk = s.stk := rfl
@[simp] theorem State.withFault_sp (f : Fault) : (s.withFault f).sp = s.sp := rfl
@[simp] theorem State.withFault_dt (f : Fault) : (s.withFault f).dt = s.dt := rfl
@[simp] theorem State.withFault_st (f : Fault) : (s.withFault f).st = s.st := rfl
@[simp] theorem State.withFault_fb (f : Fault) : (s.withFault f).fb = s.fb := rfl
@[simp] theorem State.withFault_mem (f : Fault) : (s.withFault f).mem = s.mem := rfl
@[simp] theorem State.withFault_status (f : Fault) : (s.withFault f).status = .faulted f := rfl
@[simp] theorem State.withFault_cyc (f : Fault) : (s.withFault f).cyc = s.cyc := rfl
@[simp] theorem State.withFault_heldAsked (f : Fault) : (s.withFault f).heldAsked = s.heldAsked := rfl
@[simp] theorem State.withFault_freshAsked (f : Fault) : (s.withFault f).freshAsked = s.freshAsked := rfl
@[simp] theorem State.withFault_randomDrawn (f : Fault) : (s.withFault f).randomDrawn = s.randomDrawn := rfl
@[simp] theorem State.withFault_emitted (f : Fault) : (s.withFault f).emitted = s.emitted := rfl

@[simp] theorem State.askHeld_v (k : Nibble) : (s.askHeld k).2.v = s.v := rfl
@[simp] theorem State.askHeld_pc (k : Nibble) : (s.askHeld k).2.pc = s.pc := rfl
@[simp] theorem State.askHeld_i (k : Nibble) : (s.askHeld k).2.i = s.i := rfl
@[simp] theorem State.askHeld_stk (k : Nibble) : (s.askHeld k).2.stk = s.stk := rfl
@[simp] theorem State.askHeld_sp (k : Nibble) : (s.askHeld k).2.sp = s.sp := rfl
@[simp] theorem State.askHeld_dt (k : Nibble) : (s.askHeld k).2.dt = s.dt := rfl
@[simp] theorem State.askHeld_st (k : Nibble) : (s.askHeld k).2.st = s.st := rfl
@[simp] theorem State.askHeld_fb (k : Nibble) : (s.askHeld k).2.fb = s.fb := rfl
@[simp] theorem State.askHeld_mem (k : Nibble) : (s.askHeld k).2.mem = s.mem := rfl
@[simp] theorem State.askHeld_status (k : Nibble) : (s.askHeld k).2.status = s.status := rfl
@[simp] theorem State.askHeld_cyc (k : Nibble) : (s.askHeld k).2.cyc = s.cyc := rfl
@[simp] theorem State.askHeld_heldAsked (k : Nibble) : (s.askHeld k).2.heldAsked = s.heldAsked + 1 := rfl
@[simp] theorem State.askHeld_freshAsked (k : Nibble) : (s.askHeld k).2.freshAsked = s.freshAsked := rfl
@[simp] theorem State.askHeld_randomDrawn (k : Nibble) : (s.askHeld k).2.randomDrawn = s.randomDrawn := rfl
@[simp] theorem State.askHeld_emitted (k : Nibble) : (s.askHeld k).2.emitted = s.emitted := rfl

@[simp] theorem State.askFresh_v : s.askFresh.2.v = s.v := rfl
@[simp] theorem State.askFresh_pc : s.askFresh.2.pc = s.pc := rfl
@[simp] theorem State.askFresh_i : s.askFresh.2.i = s.i := rfl
@[simp] theorem State.askFresh_stk : s.askFresh.2.stk = s.stk := rfl
@[simp] theorem State.askFresh_sp : s.askFresh.2.sp = s.sp := rfl
@[simp] theorem State.askFresh_dt : s.askFresh.2.dt = s.dt := rfl
@[simp] theorem State.askFresh_st : s.askFresh.2.st = s.st := rfl
@[simp] theorem State.askFresh_fb : s.askFresh.2.fb = s.fb := rfl
@[simp] theorem State.askFresh_mem : s.askFresh.2.mem = s.mem := rfl
@[simp] theorem State.askFresh_status : s.askFresh.2.status = s.status := rfl
@[simp] theorem State.askFresh_cyc : s.askFresh.2.cyc = s.cyc := rfl
@[simp] theorem State.askFresh_heldAsked : s.askFresh.2.heldAsked = s.heldAsked := rfl
@[simp] theorem State.askFresh_freshAsked : s.askFresh.2.freshAsked = s.freshAsked + 1 := rfl
@[simp] theorem State.askFresh_randomDrawn : s.askFresh.2.randomDrawn = s.randomDrawn := rfl
@[simp] theorem State.askFresh_emitted : s.askFresh.2.emitted = s.emitted := rfl

@[simp] theorem State.drawRandom_v : s.drawRandom.2.v = s.v := rfl
@[simp] theorem State.drawRandom_pc : s.drawRandom.2.pc = s.pc := rfl
@[simp] theorem State.drawRandom_i : s.drawRandom.2.i = s.i := rfl
@[simp] theorem State.drawRandom_stk : s.drawRandom.2.stk = s.stk := rfl
@[simp] theorem State.drawRandom_sp : s.drawRandom.2.sp = s.sp := rfl
@[simp] theorem State.drawRandom_dt : s.drawRandom.2.dt = s.dt := rfl
@[simp] theorem State.drawRandom_st : s.drawRandom.2.st = s.st := rfl
@[simp] theorem State.drawRandom_fb : s.drawRandom.2.fb = s.fb := rfl
@[simp] theorem State.drawRandom_mem : s.drawRandom.2.mem = s.mem := rfl
@[simp] theorem State.drawRandom_status : s.drawRandom.2.status = s.status := rfl
@[simp] theorem State.drawRandom_cyc : s.drawRandom.2.cyc = s.cyc := rfl
@[simp] theorem State.drawRandom_heldAsked : s.drawRandom.2.heldAsked = s.heldAsked := rfl
@[simp] theorem State.drawRandom_freshAsked : s.drawRandom.2.freshAsked = s.freshAsked := rfl
@[simp] theorem State.drawRandom_randomDrawn : s.drawRandom.2.randomDrawn = s.randomDrawn + 1 := rfl
@[simp] theorem State.drawRandom_emitted : s.drawRandom.2.emitted = s.emitted := rfl

@[simp] theorem frameTick_v : (frameTick s).v = s.v := rfl
@[simp] theorem frameTick_pc : (frameTick s).pc = s.pc := rfl
@[simp] theorem frameTick_i : (frameTick s).i = s.i := rfl
@[simp] theorem frameTick_stk : (frameTick s).stk = s.stk := rfl
@[simp] theorem frameTick_sp : (frameTick s).sp = s.sp := rfl
@[simp] theorem frameTick_dt : (frameTick s).dt = countDown s.dt := rfl
@[simp] theorem frameTick_st : (frameTick s).st = countDown s.st := rfl
@[simp] theorem frameTick_fb : (frameTick s).fb = s.fb := rfl
@[simp] theorem frameTick_mem : (frameTick s).mem = s.mem := rfl
@[simp] theorem frameTick_status : (frameTick s).status = s.status := rfl
@[simp] theorem frameTick_cyc : (frameTick s).cyc = 0 := rfl
@[simp] theorem frameTick_heldAsked : (frameTick s).heldAsked = s.heldAsked := rfl
@[simp] theorem frameTick_freshAsked : (frameTick s).freshAsked = s.freshAsked := rfl
@[simp] theorem frameTick_randomDrawn : (frameTick s).randomDrawn = s.randomDrawn := rfl
@[simp] theorem frameTick_emitted : (frameTick s).emitted = { tone := toneOf s.st, picture := s.fb } :: s.emitted := rfl

/-- A register after a write to one register: the byte written there, every other as before. -/
@[simp] theorem State.reg_setReg (x : Reg) (b : Byte) (y : Reg) :
    (s.setReg x b).reg y = if y = x then b else s.reg y := by
  simp only [State.reg, State.setReg_v, Vector.getElem_set, BitVec.toNat_inj, eq_comm (a := x)]

@[simp] theorem State.reg_setFlag (c : Bool) (y : Reg) :
    (s.setFlag c).reg y = if y = 0xF then (if c then 1 else 0) else s.reg y :=
  State.reg_setReg s 0xF _ y

/-- The flag is written last, so it remains where the destination is VF (42_alu.md R120). -/
@[simp] theorem State.reg_finishWithFlag (x : Reg) (b : Byte) (c : Bool) (y : Reg) :
    (s.finishWithFlag x b c).reg y =
      if y = 0xF then (if c then 1 else 0) else if y = x then b else s.reg y := by
  rw [show (s.finishWithFlag x b c).reg y = ((s.setReg x b).setFlag c).reg y from rfl]
  simp only [State.reg_setFlag, State.reg_setReg]

@[simp] theorem State.reg_advance (y : Reg) : s.advance.reg y = s.reg y := rfl
@[simp] theorem State.reg_skipIf (c : Bool) (y : Reg) : (s.skipIf c).reg y = s.reg y := rfl
@[simp] theorem State.reg_jump (a : Word) (y : Reg) : (s.jump a).reg y = s.reg y := rfl
@[simp] theorem State.reg_setI (a : Word) (y : Reg) : (s.setI a).reg y = s.reg y := rfl
@[simp] theorem State.reg_setMem (m : Memory) (y : Reg) : (s.setMem m).reg y = s.reg y := rfl
@[simp] theorem State.reg_setFb (f : Framebuffer) (y : Reg) : (s.setFb f).reg y = s.reg y := rfl
@[simp] theorem State.reg_setDt (b : Byte) (y : Reg) : (s.setDt b).reg y = s.reg y := rfl
@[simp] theorem State.reg_setSt (b : Byte) (y : Reg) : (s.setSt b).reg y = s.reg y := rfl
@[simp] theorem State.reg_countCycle (y : Reg) : s.countCycle.reg y = s.reg y := rfl
@[simp] theorem State.reg_withFault (f : Fault) (y : Reg) : (s.withFault f).reg y = s.reg y := rfl
@[simp] theorem State.reg_askHeld (k : Nibble) (y : Reg) : (s.askHeld k).2.reg y = s.reg y := rfl
@[simp] theorem State.reg_askFresh (y : Reg) : s.askFresh.2.reg y = s.reg y := rfl
@[simp] theorem State.reg_drawRandom (y : Reg) : s.drawRandom.2.reg y = s.reg y := rfl
@[simp] theorem State.reg_frameTick (y : Reg) : (frameTick s).reg y = s.reg y := rfl

@[simp] theorem State.takeKey_none (x : Reg) : s.takeKey x none = s := rfl

@[simp] theorem State.takeKey_some (x : Reg) (k : Nibble) :
    s.takeKey x (some k) = (s.setReg x (k.setWidth 8)).advance := rfl

/-- A block load writes V[k], V[k + 1], ... and no other register (43_index_memory.md R146). -/
theorem loadRegs_getElem (v : Vector Byte 16) (k : Nat) (bs : List Byte) (j : Nat) (hj : j < 16) :
    (loadRegs v k bs)[j] = if k ≤ j ∧ j < k + bs.length then bs.getD (j - k) 0 else v[j] := by
  induction bs generalizing v k with
  | nil => rw [if_neg (by simp only [List.length_nil]; omega)]; rfl
  | cons b bs ih =>
    simp only [loadRegs, ih, List.length_cons, Vector.getElem_setIfInBounds]
    rcases Nat.lt_trichotomy j k with h | rfl | h
    · rw [if_neg (by omega), if_neg (by omega), if_neg (by omega)]
    · simp
    · obtain ⟨d, rfl⟩ : ∃ d, j = k + 1 + d := ⟨j - (k + 1), by omega⟩
      have h1 : k + 1 + d - (k + 1) = d := by omega
      have h2 : k + 1 + d - k = d + 1 := by omega
      rw [h1, h2, if_neg (show ¬ k = k + 1 + d by omega)]
      by_cases hd : d < bs.length
      · rw [if_pos (by omega), if_pos (by omega)]
        simp
      · rw [if_neg (by omega), if_neg (by omega)]

theorem State.reg_setRegsFrom0 (bs : List Byte) (y : Reg) :
    (s.setRegsFrom0 bs).reg y = if y.toNat < bs.length then bs.getD y.toNat 0 else s.reg y := by
  simp only [State.reg, State.setRegsFrom0_v, loadRegs_getElem, Nat.zero_le, true_and, Nat.zero_add,
    Nat.sub_zero]

theorem State.length_regsUpTo (x : Reg) : (s.regsUpTo x).length = x.toNat + 1 := by
  have := x.isLt
  simp only [State.regsUpTo, List.length_take, Vector.length_toList]
  omega

theorem State.getD_regsUpTo (x : Reg) (k : Reg) (h : k.toNat ≤ x.toNat) :
    (s.regsUpTo x).getD k.toNat 0 = s.reg k := by
  have := x.isLt
  simp only [State.regsUpTo, State.reg, List.getD_eq_getElem?_getD]
  rw [List.getElem?_take_of_lt (by omega)]
  simp [show k.toNat < 16 from k.isLt]

end Sys2Proof.Machine
end

