-- ==== Sys2Proof/Laws/Step.lean ====
section
/-! SUPPORT. What a step can do, said once: every proof about steps starts from `step_cases`. -/

namespace Sys2Proof.Machine

theorem ipf_pos : 0 < ipf := Nat.succ_pos _

/-- IPF is max(1, IPS div 60) (40_execution_cycle.md R88). -/
theorem cyclesPerFrame_eq (ips : Nat) : cyclesPerFrame ips = max 1 (ips / 60) := by
  simp only [cyclesPerFrame]
  omega

/-- A cycle that answers a next state fetched a word, decoded it and ran its rule (R80). -/
theorem cycle_cases {s t : State} (h : cycle s = .next t) :
    ∃ w i u, fetch s = .ok w ∧ decodeWord w = .ok i ∧ exec i s = .next u ∧ t = u.countCycle := by
  simp only [cycle, raise] at h
  split at h
  · cases h
  · next w hw =>
    split at h
    · cases h
    · next i hi =>
      cases he : exec i s with
      | next u => rw [he] at h; cases h; exact ⟨w, i, u, hw, hi, he, rfl⟩
      | fault f => rw [he] at h; cases h
      | refused r => rw [he] at h; cases h

/-- A step that answers a next state is a frame tick or a cycle of a running machine (R83, R20). -/
theorem step_cases {s t : State} (h : step s = .next t) :
    s.status = .running ∧
      (ipf ≤ s.cyc ∧ t = frameTick s ∨
        s.cyc < ipf ∧ ∃ w i u, fetch s = .ok w ∧ decodeWord w = .ok i ∧ exec i s = .next u ∧
          t = u.countCycle) := by
  simp only [step, schedule, raise] at h
  split at h
  · cases h
  · next hs =>
    split at h
    · next hc => cases h; exact ⟨hs, .inl ⟨hc, rfl⟩⟩
    · next hc => exact ⟨hs, .inr ⟨by omega, cycle_cases h⟩⟩

/-- A step of a running machine inside a frame is a cycle (R83). -/
theorem step_eq_cycle {s : State} (hs : s.status = .running) (hc : s.cyc < ipf) : step s = cycle s := by
  simp only [step, schedule, hs, if_neg (show ¬ ipf ≤ s.cyc by omega)]

/-- A step of a running machine at the end of a frame is the frame tick (R83). -/
theorem step_eq_tick {s : State} (hs : s.status = .running) (hc : ipf ≤ s.cyc) :
    step s = .next (frameTick s) := by
  simp only [step, schedule, hs, if_pos hc]

/-- A cycle runs the instruction its fetch and its decoding give. -/
theorem cycle_eq {s : State} {w : Word} {i : Instr} (hw : fetch s = .ok w)
    (hi : decodeWord w = .ok i) : cycle s = closeCycle (exec i s) := by
  simp only [cycle, hw, hi]

/-- A run has ended where a jump to its own address is fetched (40_execution_cycle.md R87). -/
theorem runEnded_iff {s : State} :
    runEnded s = true ↔ ∃ nnn : Addr, fetch s = .ok (encodeWord (.jp nnn)) ∧ zextAddr nnn = s.pc := by
  have hpc : ∀ w, fetch s = .ok w → zextAddr (s.pc.setWidth 12) = s.pc := fun w h => by
    have := (fetch_eq_ok.1 h).1
    apply BitVec.eq_of_toNat_eq
    rw [zextAddr_toNat, BitVec.toNat_setWidth, Nat.mod_eq_of_lt (by omega)]
  simp only [runEnded]
  constructor
  · intro h
    split at h
    · next w hw => exact ⟨_, by rw [hw, eq_of_beq h], hpc w hw⟩
    · cases h
  · rintro ⟨nnn, hf, ha⟩
    rw [hf, ← ha, show (zextAddr nnn).setWidth 12 = nnn by simp [zextAddr]]
    exact beq_self_eq_true _

end Sys2Proof.Machine
end

