-- ==== Sys2Proof/Tests/Slice0.lean ====
section
/-! SUPPORT. Checks of the model against the spec: the encoding of every instruction, worked examples of
95_test_vectors.md (named by their ids there, S and T), and for every statement with hypotheses a state and
operands that meet them. -/

namespace Sys2Proof.Tests

open Sys2Proof Sys2Proof.Machine

/-! ### Helpers -/

/-- A state with registers set. -/
def regs (l : List (Reg × Byte)) (s : State) : State := l.foldl (fun s p => s.setReg p.1 p.2) s

/-- The reset state with registers set, and I. -/
def start (l : List (Reg × Byte)) (i : Word := 0) : State := (regs l State.reset).setI i

/-- A state with bytes in memory. -/
def bytes (a : Nat) (bs : List Byte) (s : State) : State := s.setMem (Memory.load s.mem a bs)

/-- A state with one framebuffer byte set. -/
def lit (a : Nat) (b : Byte) (s : State) : State := s.setFb (s.fb.setIfInBounds a b)

/-- A state whose call stack holds `k` return addresses, all 0x0246. -/
def nested (k : Fin 17) (s : State) : State := { s with stk := Vector.replicate 16 0x0246, sp := k }

/-- The next step, with the word at PC, goes on to a state that passes the check. -/
def runs (w : Nat) (s : State) (check : State → Bool) : Bool :=
  match step (s.withFetchWord 16 w) with
  | .next t => check t
  | .fault _ => false
  | .refused _ => false

/-- The next step, with the word at PC, ends in the fault. -/
def stops (w : Nat) (s : State) (f : Fault) : Bool :=
  match step (s.withFetchWord 16 w) with
  | .next _ => false
  | .fault g => g == f
  | .refused _ => false

/-- The framebuffer bytes listed. -/
def shows (l : List (Nat × Byte)) (s : State) : Bool := l.all (fun p => s.fb[p.1]? == some p.2)

/-! ### Encoding (30_encoding.md) -/

/-- One word of R69's list for each class that has unknown words is refused: T4 to T8. -/
theorem test_wellFormed_refuses :
    (wellFormedWord 0x0000 || wellFormedWord 0x0123 || wellFormedWord 0x5121 || wellFormedWord 0x8128 ||
      wellFormedWord 0x9121 || wellFormedWord 0xE39F || wellFormedWord 0xF075) = false := by decide

/-- A word of each of the same classes that is an instruction is accepted (R67). -/
theorem test_wellFormed_accepts :
    (wellFormedWord 0x00E0 && wellFormedWord 0x5120 && wellFormedWord 0x812E && wellFormedWord 0x9120 &&
      wellFormedWord 0xE39E && wellFormedWord 0xF065 && wellFormedWord 0x1FFF) = true := by decide

/-- The two words of class 0, bit by bit. -/
theorem test_decode_class0 :
    decodeWord 0b0000_0000_1110_0000 = .ok .cls ∧ decodeWord 0b0000_0000_1110_1110 = .ok .ret := by
  decide

/-- Format A, bit by bit: class, nnn. -/
theorem test_decode_formatA :
    decodeWord 0b0001_0010_0011_0100 = .ok (.jp 0x234) ∧
    decodeWord 0b0010_1010_1011_1100 = .ok (.call 0xABC) ∧
    decodeWord 0b1010_0010_1111_0000 = .ok (.ldINnn 0x2F0) ∧
    decodeWord 0b1011_0011_0000_0001 = .ok (.jpV0Nnn 0x301) := by decide

/-- Format XI, bit by bit: class, x, nn. -/
theorem test_decode_formatXI :
    decodeWord 0b0011_1010_0100_0010 = .ok (.seVxNn 0xA 0x42) ∧
    decodeWord 0b0100_1010_0100_0010 = .ok (.sneVxNn 0xA 0x42) ∧
    decodeWord 0b0110_1010_0101_0101 = .ok (.ldVxNn 0xA 0x55) ∧
    decodeWord 0b0111_1010_0000_0001 = .ok (.addVxNn 0xA 0x01) ∧
    decodeWord 0b1100_0011_0000_1111 = .ok (.rnd 0x3 0x0F) := by decide

/-- Format XY in classes 5 and 9, and the first half of class 8, bit by bit: class, x, y, selector. -/
theorem test_decode_formatXY_low :
    decodeWord 0b0101_0001_0010_0000 = .ok (.seVxVy 1 2) ∧
    decodeWord 0b1001_0001_0010_0000 = .ok (.sneVxVy 1 2) ∧
    decodeWord 0b1000_0001_0010_0000 = .ok (.ldVxVy 1 2) ∧
    decodeWord 0b1000_0001_0010_0001 = .ok (.or 1 2) ∧
    decodeWord 0b1000_0001_0010_0010 = .ok (.and 1 2) ∧
    decodeWord 0b1000_0001_0010_0011 = .ok (.xor 1 2) := by decide

/-- The second half of class 8, and format XYN, bit by bit. -/
theorem test_decode_formatXY_high :
    decodeWord 0b1000_0001_0010_0100 = .ok (.addVxVy 1 2) ∧
    decodeWord 0b1000_0001_0010_0101 = .ok (.sub 1 2) ∧
    decodeWord 0b1000_0001_0010_0110 = .ok (.shr 1 2) ∧
    decodeWord 0b1000_0001_0010_0111 = .ok (.subn 1 2) ∧
    decodeWord 0b1000_0001_0010_1110 = .ok (.shl 1 2) ∧
    decodeWord 0b1101_0001_0010_0101 = .ok (.drw 1 2 5) := by decide

/-- Format X in class E and the first half of class F, bit by bit: class, x, selector. -/
theorem test_decode_formatX_low :
    decodeWord 0b1110_0011_1001_1110 = .ok (.skp 3) ∧
    decodeWord 0b1110_0011_1010_0001 = .ok (.sknp 3) ∧
    decodeWord 0b1111_0100_0000_0111 = .ok (.ldVxDt 4) ∧
    decodeWord 0b1111_0010_0000_1010 = .ok (.ldVxK 2) ∧
    decodeWord 0b1111_0101_0001_0101 = .ok (.ldDtVx 5) ∧
    decodeWord 0b1111_0101_0001_1000 = .ok (.ldStVx 5) := by decide

/-- The second half of class F, bit by bit. -/
theorem test_decode_formatX_high :
    decodeWord 0b1111_0011_0001_1110 = .ok (.addIVx 3) ∧
    decodeWord 0b1111_0000_0010_1001 = .ok (.ldFVx 0) ∧
    decodeWord 0b1111_0101_0011_0011 = .ok (.ldBVx 5) ∧
    decodeWord 0b1111_0010_0101_0101 = .ok (.ldMemVx 2) ∧
    decodeWord 0b1111_0010_0110_0101 = .ok (.ldVxMem 2) := by decide

/-- T4 to T8 and S15: the decoder refuses with the word. -/
theorem test_decode_unknown :
    decodeWord 0x00E1 = .error (.unknownInstruction 0x00E1) ∧
    decodeWord 0x5121 = .error (.unknownInstruction 0x5121) ∧
    decodeWord 0x812F = .error (.unknownInstruction 0x812F) ∧
    decodeWord 0x9121 = .error (.unknownInstruction 0x9121) ∧
    decodeWord 0xE39F = .error (.unknownInstruction 0xE39F) ∧
    decodeWord 0xF000 = .error (.unknownInstruction 0xF000) ∧
    decodeWord 0xFFFF = .error (.unknownInstruction 0xFFFF) := by decide

/-- The host's reading of a table word: S2's word, and one the decoder refuses. -/
theorem test_decodeTableWord :
    decodeTableWord 16 0x1234 = some (.jp 0x234) ∧ decodeTableWord 16 0x5121 = none := by decide

/-! ### Memory and fetch (20_memory.md) -/

/-- S1. -/
theorem test_memory_bounds :
    (memWrite [] 0xFFF 0xAB).toOption.map (fun m => (memRead m 0xFFF).toOption) = some (some 0xAB) ∧
    memRead [] 0x1000 = .error (.memoryOutOfRange 0x1000) ∧
    memWrite [] 0x1000 0 = .error (.memoryOutOfRange 0x1000) := by decide

/-- Writing what an unlisted address reads as removes the entry (font byte 0 is 0xF0, R243). -/
theorem test_memory_canonical :
    Memory.write (Memory.write [] 0 7) 0 0xF0 = [] ∧ Memory.write (Memory.write [] 9 1) 5 2 = [(5, 2), (9, 1)] := by
  decide

/-- T1: the last address that can be fetched from, and S2's byte order. -/
theorem test_fetch_last :
    fetch (bytes 0xFFE [0x12, 0x34] { State.reset with pc := 0xFFE }) = .ok 0x1234 := by decide

/-- T2: a fetch from 0xFFF raises. -/
theorem test_fetch_past :
    (match step { State.reset with pc := 0xFFF } with
      | .fault f => f == .memoryOutOfRange 0xFFF
      | _ => false) = true := by decide

/-- T3: an odd PC. -/
theorem test_fetch_odd :
    runs 0x6A55 { State.reset with pc := 0x201 } (fun t => t.reg 0xA == 0x55 && t.pc == 0x203) = true := by
  decide

/-- T143 and T4: with nothing loaded the first cycle raises UnknownInstruction(0x0000). -/
theorem test_empty_rom :
    (match step State.reset with
      | .fault f => f == .unknownInstruction 0x0000
      | _ => false) = true := by decide

/-! ### Control flow (41_control_flow.md) -/

/-- T100. -/
theorem test_cls :
    runs 0x00E0 (lit 0 0xFF (lit 255 0x01 (start [(0xF, 1)])))
      (fun t => shows [(0, 0), (255, 0)] t && t.reg 0xF == 1 && t.pc == 0x202) = true := by decide +kernel

/-- T15. -/
theorem test_ret :
    runs 0x00EE (nested 1 State.reset) (fun t => t.sp == 0 && t.pc == 0x246) = true := by decide

/-- T16. -/
theorem test_ret_empty : stops 0x00EE State.reset (.stackUnderflow 0x200) = true := by decide

/-- T11. -/
theorem test_jp : runs 0x1FFF State.reset (fun t => t.pc == 0xFFF) = true := by decide

/-- T13: the 16th nested call. -/
theorem test_call :
    runs 0x2300 (nested 15 State.reset)
      (fun t => t.stk[15] == 0x202 && t.stk[14] == 0x246 && t.sp == 16 && t.pc == 0x300) = true := by decide

/-- T14: the 17th. -/
theorem test_call_full : stops 0x2300 (nested 16 State.reset) (.stackOverflow 0x200) = true := by decide

/-- T17. -/
theorem test_seVxNn :
    (runs 0x3A42 (start [(0xA, 0x42)]) (fun t => t.pc == 0x204) &&
      runs 0x3A42 (start [(0xA, 0x41)]) (fun t => t.pc == 0x202)) = true := by decide

/-- T18. -/
theorem test_sneVxNn :
    (runs 0x4A42 (start [(0xA, 0x42)]) (fun t => t.pc == 0x202) &&
      runs 0x4A42 (start [(0xA, 0x41)]) (fun t => t.pc == 0x204)) = true := by decide

/-- T19. -/
theorem test_seVxVy :
    (runs 0x5120 (start [(1, 7), (2, 7)]) (fun t => t.pc == 0x204) &&
      runs 0x5120 (start [(1, 7), (2, 8)]) (fun t => t.pc == 0x202)) = true := by decide

/-- T21. -/
theorem test_sneVxVy :
    (runs 0x9120 (start [(1, 7), (2, 7)]) (fun t => t.pc == 0x202) &&
      runs 0x9120 (start [(1, 7), (2, 8)]) (fun t => t.pc == 0x204)) = true := by decide

/-- T23: the target is not reduced to 12 bits. -/
theorem test_jpV0Nnn : runs 0xBFFF (start [(0, 0xFF)]) (fun t => t.pc == 0x10FE) = true := by decide

/-! ### Arithmetic and logic (42_alu.md) -/

/-- T30. -/
theorem test_ldVxNn :
    runs 0x6A55 State.reset (fun t => t.reg 0xA == 0x55 && t.pc == 0x202) = true := by decide

/-- T31. -/
theorem test_addVxNn :
    runs 0x7A01 (start [(0xA, 0xFF), (0xF, 7)]) (fun t => t.reg 0xA == 0 && t.reg 0xF == 7) = true := by
  decide

/-- T32: VF as an ordinary destination. -/
theorem test_addVxNn_vf : runs 0x7F01 (start [(0xF, 0xFF)]) (fun t => t.reg 0xF == 0) = true := by decide

/-- T33. -/
theorem test_ldVxVy :
    runs 0x8120 (start [(1, 1), (2, 0x77), (0xF, 5)]) (fun t => t.reg 1 == 0x77 && t.reg 0xF == 5) = true := by
  decide

/-- S8, OR. -/
theorem test_or :
    runs 0x8121 (start [(1, 0xF0), (2, 0x0F), (0xF, 1)]) (fun t => t.reg 1 == 0xFF && t.reg 0xF == 0) = true := by
  decide

/-- T36: VF is read before it is reset. -/
theorem test_or_vf :
    runs 0x81F1 (start [(1, 0xF0), (0xF, 0x0F)]) (fun t => t.reg 1 == 0xFF && t.reg 0xF == 0) = true := by
  decide

/-- S8, AND. -/
theorem test_and :
    runs 0x8122 (start [(1, 0xF0), (2, 0x3C), (0xF, 1)]) (fun t => t.reg 1 == 0x30 && t.reg 0xF == 0) = true := by
  decide

/-- S8, XOR. -/
theorem test_xor :
    runs 0x8123 (start [(1, 0xF0), (2, 0x3C), (0xF, 1)]) (fun t => t.reg 1 == 0xCC && t.reg 0xF == 0) = true := by
  decide

/-- T38: x = y. -/
theorem test_addVxVy :
    runs 0x8114 (start [(1, 0x90)]) (fun t => t.reg 1 == 0x20 && t.reg 0xF == 1) = true := by decide

/-- T39: the carry is what remains in VF. -/
theorem test_addVxVy_vf :
    (runs 0x8F14 (start [(0xF, 0xF0), (1, 0x20)]) (fun t => t.reg 0xF == 1) &&
      runs 0x8F14 (start [(0xF, 0x10), (1, 0x20)]) (fun t => t.reg 0xF == 0)) = true := by decide

/-- S7. -/
theorem test_sub_borrow :
    runs 0x8125 (start [(1, 1), (2, 3), (0xF, 1)]) (fun t => t.reg 1 == 0xFE && t.reg 0xF == 0) = true := by
  decide

/-- T41: equal operands are no borrow. -/
theorem test_sub_equal :
    runs 0x8125 (start [(1, 7), (2, 7)]) (fun t => t.reg 1 == 0 && t.reg 0xF == 1) = true := by decide

/-- S9. -/
theorem test_shr :
    runs 0x8126 (start [(1, 0xFF), (2, 3)]) (fun t => t.reg 1 == 1 && t.reg 2 == 3 && t.reg 0xF == 1) = true := by
  decide

/-- T45: the bit shifted out is what remains in VF. -/
theorem test_shr_vf : runs 0x8F16 (start [(1, 0xFE)]) (fun t => t.reg 0xF == 0) = true := by decide

/-- T47. -/
theorem test_subn :
    (runs 0x8127 (start [(1, 3), (2, 5)]) (fun t => t.reg 1 == 2 && t.reg 0xF == 1) &&
      runs 0x8127 (start [(1, 5), (2, 3), (0xF, 1)]) (fun t => t.reg 1 == 0xFE && t.reg 0xF == 0)) = true := by
  decide

/-- T48. -/
theorem test_shl :
    runs 0x812E (start [(2, 0x81)]) (fun t => t.reg 1 == 2 && t.reg 2 == 0x81 && t.reg 0xF == 1) = true := by
  decide

/-- T50. -/
theorem test_shl_vf : runs 0x8F1E (start [(1, 0x7F)]) (fun t => t.reg 0xF == 0) = true := by decide

/-! ### Index register and memory (43_index_memory.md) -/

/-- T60. -/
theorem test_ldINnn : runs 0xA2F0 State.reset (fun t => t.i == 0x2F0) = true := by decide

/-- T61. -/
theorem test_addIVx :
    runs 0xF31E (start [(3, 5), (0xF, 3)] 0xFFE) (fun t => t.i == 0x1003 && t.reg 0xF == 3) = true := by decide

/-- T62: the wrap of D9. -/
theorem test_addIVx_wraps : runs 0xF31E (start [(3, 0xFF)] 0xFFFF) (fun t => t.i == 0xFE) = true := by decide

/-- T64. -/
theorem test_ldFVx : runs 0xF029 (start [(0, 0x0F)]) (fun t => t.i == 0x4B) = true := by decide

/-- T65. -/
theorem test_ldFVx_past : stops 0xF029 (start [(0, 0x10)]) (.digitOutOfRange 0x10) = true := by decide

/-- T66. -/
theorem test_ldBVx :
    runs 0xF533 (start [(5, 156)] 0x300)
      (fun t => Memory.read t.mem 0x300 == 1 && Memory.read t.mem 0x301 == 5 &&
        Memory.read t.mem 0x302 == 6 && t.i == 0x300) = true := by decide

/-- T68. -/
theorem test_ldBVx_past :
    stops 0xF533 (start [(5, 7)] 0xFFE) (.memoryOutOfRange 0x1000) = true := by decide

/-- T69. -/
theorem test_ldMemVx :
    runs 0xF255 (start [(0, 0x11), (1, 0x22), (2, 0x33), (3, 0x44)] 0x300)
      (fun t => Memory.read t.mem 0x300 == 0x11 && Memory.read t.mem 0x302 == 0x33 &&
        Memory.read t.mem 0x303 == 0 && t.i == 0x301) = true := by decide

/-- T71. -/
theorem test_ldMemVx_past :
    stops 0xF155 (start [] 0xFFF) (.memoryOutOfRange 0x1000) = true := by decide

/-- T73. -/
theorem test_ldVxMem :
    runs 0xF165 (bytes 0x300 [0xAA, 0xBB, 0xCC] (start [] 0x300))
      (fun t => t.reg 0 == 0xAA && t.reg 1 == 0xBB && t.reg 2 == 0 && t.i == 0x301) = true := by decide

/-- T74, the font as reset leaves it: the first, the sixth and the last byte. -/
theorem test_ldVxMem_font :
    runs 0xFF65 State.reset
      (fun t => t.reg 0 == 0xF0 && t.reg 5 == 0x20 && t.reg 0xF == 0xF0 && t.i == 1) = true := by decide

/-! ### Display (44_display.md) -/

/-- T83: column 63 and row 31; T92: a collision in the wrapped byte. -/
theorem test_drw_wraps :
    (runs 0xD011 (bytes 0x300 [0xFF] (start [(0, 63), (1, 31)] 0x300))
        (fun t => shows [(255, 0x01), (248, 0xFE), (0, 0), (7, 0)] t && t.reg 0xF == 0 && t.pc == 0x202) &&
      runs 0xD011 (lit 0 0x80 (bytes 0x300 [0xFF] (start [(0, 60)] 0x300)))
        (fun t => shows [(7, 0x0F), (0, 0x70), (8, 0)] t && t.reg 0xF == 1)) = true := by decide +kernel

/-- T93: a clipped row neither wraps nor collides; T96: its byte is read all the same. -/
theorem test_drw_clips :
    (runs 0xD012 (lit 0 0xFF (bytes 0x300 [0x00, 0xFF] (start [(1, 31)] 0x300)))
        (fun t => shows [(0, 0xFF), (248, 0)] t && t.reg 0xF == 0) &&
      stops 0xD012 (start [(1, 31)] 0xFFF) (.memoryOutOfRange 0x1000)) = true := by decide +kernel

/-! ### Keypad, timers, random (45_keypad_timer_random.md) -/

/-- T111: whatever the byte drawn, a mask of 0 leaves 0. -/
theorem test_rnd : ∃ t, exec (.rnd 3 0x00) (start [(3, 9)]) = .next t ∧ t.reg 3 = 0 :=
  ⟨_, rfl, BitVec.and_zero⟩

/-- T113: the next PC hangs on the keypad's answer about key 5. -/
theorem test_skp :
    exec (.skp 3) (start [(3, 5)]) = .next { start [(3, 5)] with
      pc := 0x200 + if Config.keyHeld 0 5 = true then 4 else 2
      heldAsked := 1 } := rfl

/-- T115. -/
theorem test_skp_past : stops 0xE39E (start [(3, 0x10)]) (.keyOutOfRange 0x10) = true := by decide

/-- T116. -/
theorem test_sknp :
    exec (.sknp 3) (start [(3, 5)]) = .next { start [(3, 5)] with
      pc := 0x200 + if (!Config.keyHeld 0 5) = true then 4 else 2
      heldAsked := 1 } := rfl

/-- T117. -/
theorem test_sknp_past : stops 0xE3A1 (start [(3, 0xFF)]) (.keyOutOfRange 0xFF) = true := by decide

/-- T118. -/
theorem test_ldVxDt :
    runs 0xF407 { State.reset with dt := 0x1E } (fun t => t.reg 4 == 0x1E && t.dt == 0x1E) = true := by decide

/-- T121. -/
theorem test_ldVxK_none :
    ((start [(2, 0x99)]).takeKey 2 none).reg 2 = 0x99 ∧ ((start [(2, 0x99)]).takeKey 2 none).pc = 0x200 := by
  decide

/-- T122: key 0 is a key. -/
theorem test_ldVxK_key :
    ((start [(2, 0x99)]).takeKey 2 (some 0)).reg 2 = 0 ∧ ((start [(2, 0x99)]).takeKey 2 (some 0)).pc = 0x202 ∧
    ((start [(2, 0x99)]).takeKey 2 (some 7)).reg 2 = 7 := by decide

/-- T119. -/
theorem test_ldDtVx : runs 0xF515 (start [(5, 0x3C)]) (fun t => t.dt == 0x3C && t.st == 0) = true := by decide

/-- T120. -/
theorem test_ldStVx : runs 0xF518 (start [(5, 0x02)]) (fun t => t.st == 2 && t.dt == 0) = true := by decide

/-! ### Frame tick and reset (60_exceptions.md, 70_reset_and_hazards.md) -/

/-- DT and ST after a tick, and its tone. -/
def tick (dt st : Byte) : Byte × Byte × List Tone :=
  let t := frameTick { State.reset with dt := dt, st := st }
  (t.dt, t.st, t.emitted.map Frame.tone)

/-- T131 to T135. -/
theorem test_frameTick :
    tick 1 0 = (0, 0, [.silent]) ∧ tick 5 3 = (4, 2, [.play]) ∧ tick 0 1 = (0, 0, [.stop]) ∧
      tick 255 255 = (254, 254, [.play]) := by decide

/-- R88 with the rate of P4's rows, and a rate below 60. -/
theorem test_cyclesPerFrame :
    cyclesPerFrame 60 = 1 ∧ cyclesPerFrame 120 = 2 ∧ cyclesPerFrame 239 = 3 ∧ cyclesPerFrame 0 = 1 := by decide

/-- T140: a two-byte ROM. -/
theorem test_boot :
    (match boot {} [0x12, 0x34] with
      | .next t => Memory.read t.mem 0 == 0xF0 && Memory.read t.mem 0x4F == 0x80 &&
          Memory.read t.mem 0x50 == 0 && Memory.read t.mem 0x200 == 0x12 &&
          Memory.read t.mem 0x201 == 0x34 && Memory.read t.mem 0x202 == 0
      | _ => false) = true := by decide +kernel

/-! ### Witnesses: for every statement with hypotheses, what meets them -/

/-- The reset state with a CLS placed and one pixel lit: many witnesses start from it. -/
def beforeCls : State := (lit 0 0x80 State.reset).withFetchWord 16 0x00E0

theorem witness_EncodeOfDecodeIsTheWord : decodeWord 0xD125 = .ok (.drw 1 2 5) := by decide

theorem witness_UnknownWordsAreExactlyTheListed :
    wellFormedWord 0x00EE = true ∧ wellFormedWord 0x00EF = false := by decide

theorem witness_MemoryWriteThenRead : (4095 : Nat) < 4096 ∧ (0 : Nat) ≠ 4095 ∧ (4096 : Nat) ≤ 4096 := by decide

theorem witness_FetchIsBigEndianAndBounded :
    ({ State.reset with pc := 0xFFE } : State).pc.toNat < 4095 ∧
      4095 ≤ ({ State.reset with pc := 0xFFF } : State).pc.toNat := by decide

/-- A state running inside a frame for each clause: a fetch fault, an unknown word, an instruction that goes
on, and one that faults. -/
theorem witness_StepRunsTheDecodedInstruction :
    (∃ s f, s.status = .running ∧ s.cyc < ipf ∧ fetch s = .error f) ∧
    (∃ s w r, s.status = .running ∧ s.cyc < ipf ∧ fetch s = .ok w ∧ decodeWord w = .error r) ∧
    (∃ s w i t, s.status = .running ∧ s.cyc < ipf ∧ fetch s = .ok w ∧ decodeWord w = .ok i ∧
      exec i s = .next t) ∧
    (∃ s w i f, s.status = .running ∧ s.cyc < ipf ∧ fetch s = .ok w ∧ decodeWord w = .ok i ∧
      exec i s = .fault f) :=
  ⟨⟨{ State.reset with pc := 0xFFF }, _, rfl, ipf_pos, rfl⟩,
    ⟨State.reset, _, _, rfl, ipf_pos, rfl, rfl⟩,
    ⟨beforeCls, _, _, _, rfl, ipf_pos, rfl, rfl, rfl⟩,
    ⟨State.reset.withFetchWord 16 0x00EE, _, _, _, rfl, ipf_pos, rfl, rfl, rfl⟩⟩

theorem witness_PlacedInstructionIsTheNextToRun :
    (∃ t, exec .cls (State.reset.withFetchWord 16 (encodeWord .cls).toNat) = .next t) ∧
    (∃ f, exec .ret (State.reset.withFetchWord 16 (encodeWord .ret).toNat) = .fault f) :=
  ⟨⟨_, rfl⟩, ⟨_, rfl⟩⟩

theorem witness_FrameTickChangesOnlyTimersAndOutput :
    ∃ s : State, s.status = .running ∧ ipf ≤ s.cyc :=
  ⟨{ State.reset with cyc := ipf }, rfl, Nat.le_refl _⟩

theorem witness_TimersCountDownAndStayAtZero :
    (∃ t, exec .cls State.reset = .next t) ∧ (∀ x, Instr.cls ≠ .ldDtVx x) ∧ (∀ x, Instr.cls ≠ .ldStVx x) :=
  ⟨⟨_, rfl⟩, nofun, nofun⟩

/-- A machine in a self-jump (T10) that has done `c` cycles of its frame. -/
def looping (c : Nat) : State := { State.reset with mem := [(0x200, 0x12)], cyc := c }

theorem looping_fetch (c : Nat) : fetch (looping c) = .ok 0x1200 :=
  fetch_eq_ok.2 ⟨(by decide : (0x200 : Word).toNat < 4095),
    (by decide : 0x1200 = wordOfBytes (Memory.read [(0x200, 0x12)] 0x200) (Memory.read [(0x200, 0x12)] 0x201))⟩

theorem looping_step {c : Nat} (h : c < ipf) : step (looping c) = .next (looping (c + 1)) := by
  rw [step_eq_cycle rfl h, cycle_eq (i := .jp 0x200) (looping_fetch c) rfl]
  rfl

theorem looping_runs {k c : Nat} (h : c + k ≤ ipf) : RunsTo k (looping c) (looping (c + k)) := by
  induction k generalizing c with
  | zero => rfl
  | succ k ih =>
    refine ⟨_, looping_step (by omega), ?_⟩
    rw [show c + (k + 1) = c + 1 + k by omega]
    exact ih (by omega)

theorem looping_ticks {k c : Nat} (h : c + k = ipf) : ∃ t, RunsTo (k + 1) (looping c) t := by
  induction k generalizing c with
  | zero => exact ⟨_, _, step_eq_tick rfl (by simp only [looping]; omega), rfl⟩
  | succ k ih =>
    obtain ⟨t, ht⟩ := ih (show c + 1 + k = ipf by omega)
    exact ⟨t, _, looping_step (by omega), ht⟩

/-- The end of a run (D21): T10's self-jump is one; T11's jump elsewhere and an address that cannot be
fetched from are none. -/
theorem test_runEnded :
    runEnded (State.reset.withFetchWord 16 0x1200) = true ∧
    runEnded (State.reset.withFetchWord 16 0x1FFF) = false ∧
    runEnded { State.reset with pc := 0xFFF } = false := by decide

theorem witness_EndedRunChangesOnlyTimersAndOutput :
    ∃ s : State, s.status = .running ∧ runEnded s = true ∧ 0 < s.dt.toNat ∧ 0 < s.st.toNat :=
  ⟨((State.reset.withFetchWord 16 0x1200).setDt 3).setSt 2, by decide, by decide, by decide, by decide⟩

theorem witness_ExactlyOneTickAFrame :
    ∃ s : State, s.status = .running ∧ s.cyc = 0 ∧ (∀ k, k ≤ ipf → ∃ t, RunsTo k s t) ∧
      ∃ t, RunsTo (ipf + 1) s t :=
  ⟨looping 0, rfl, rfl, fun k h => ⟨_, looping_runs (show 0 + k ≤ ipf by omega)⟩,
    looping_ticks (Nat.zero_add _)⟩

/-- A store at the last addresses of memory is a step from a canonical memory. -/
theorem witness_StepKeepsMemoryCanonical :
    ∃ s t, MemoryCanonical s ∧ step s = .next t :=
  ⟨(start [(5, 255)] 0xFFD).withFetchWord 16 0xF533, _, (by decide : Memory.wf _), rfl⟩

/-- A return to the highest return address there is, 4096. -/
theorem witness_StepKeepsPcInRange : ∃ s t, PcInRange s ∧ step s = .next t :=
  ⟨{ State.reset with sp := 1, stk := Vector.replicate 16 0x1000 }.withFetchWord 16 0x00EE, _,
    ⟨by decide, by decide⟩, rfl⟩

theorem witness_StepKeepsFrameCount :
    (∃ s t, FrameCountInRange s ∧ step s = .next t) ∧ FrameCountInRange { State.reset with cyc := ipf } :=
  ⟨⟨beforeCls, _, Nat.zero_le _, rfl⟩, Nat.le_refl _⟩

theorem witness_OnlyStoresChangeMemory :
    ∃ s t, step s = .next t ∧ ∃ a, Memory.read t.mem a ≠ Memory.read s.mem a :=
  ⟨(start [(5, 156)] 0x300).withFetchWord 16 0xF533, _, rfl, 0x300, by decide⟩

theorem witness_OnlyClearAndDrawChangeTheFramebuffer : ∃ s t, step s = .next t ∧ t.fb ≠ s.fb :=
  ⟨beforeCls, _, rfl, fun h => absurd (congrArg (fun fb : Framebuffer => fb[0]) h) (by decide +kernel)⟩

theorem witness_OnlyCallAndReturnTouchTheStack : ∃ s t, step s = .next t ∧ t.stk ≠ s.stk ∧ t.sp ≠ s.sp :=
  ⟨State.reset.withFetchWord 16 0x2300, _, rfl, by decide, by decide⟩

theorem witness_OnlyFiveInstructionsChangeI : ∃ s t, step s = .next t ∧ t.i ≠ s.i :=
  ⟨State.reset.withFetchWord 16 0xA2F0, _, rfl, by decide⟩

theorem witness_RegistersChangeOnlyWhereTheTableSays :
    (∃ t, exec (.ldVxMem 2) State.reset = .next t) ∧ mayWrite (.ldVxMem 2) 3 = false :=
  ⟨⟨_, rfl⟩, by decide⟩

theorem witness_FlagIsZeroOrOne :
    writesFlag (.addVxVy 0xF 1) = true ∧ ∃ t, exec (.addVxVy 0xF 1) State.reset = .next t :=
  ⟨rfl, _, rfl⟩

theorem witness_NextPcIsInTheTable : ∃ t, exec (.jpV0Nnn 0xFFF) (start [(0, 0xFF)]) = .next t := ⟨_, rfl⟩

theorem witness_InputsAreAskedOncePerExecution : ∃ t, exec (.skp 3) (start [(3, 15)]) = .next t := ⟨_, rfl⟩

theorem witness_ToneTimerIsNeverRead :
    (∃ t, exec .cls State.reset = .next t) ∧ (∃ f, exec .ret State.reset = .fault f) ∧
      (State.reset.setSt 7).st ≠ State.reset.st :=
  ⟨⟨_, rfl⟩, ⟨_, rfl⟩, by decide⟩

theorem witness_ReturnPopsIntoPc :
    State.reset.sp.val = 0 ∧ 0 < (nested 1 State.reset).sp.val ∧ 0 < (nested 16 State.reset).sp.val := by decide

theorem witness_CallPushesAndJumps :
    (nested 16 State.reset).sp.val = 16 ∧ (nested 15 State.reset).sp.val < 16 ∧ State.reset.sp.val < 16 := by decide

theorem witness_ReturnUndoesCall :
    (nested 15 State.reset).sp.val < 16 ∧
      ∃ t u : State, exec (.call 0x300) (nested 15 State.reset) = .next t ∧ u.stk = t.stk ∧ u.sp = t.sp ∧ u ≠ t :=
  ⟨by decide, _, { State.reset with stk := (nested 15 State.reset).stk.set 15 0x202, sp := 16 }, rfl, rfl, rfl,
    fun h => absurd (congrArg State.pc h) (by decide)⟩

/-- For LogicClearsTheFlag, AddSetsTheCarry, SubtractionsSetNoBorrow, ShiftsReadVy, and the clauses about
other registers: a destination that is not VF, with a third register. -/
theorem witness_destination_not_vf : (0xE : Reg) ≠ 0xF ∧ (0 : Reg) ≠ 0xE ∧ (0 : Reg) ≠ 0xF := by decide

theorem witness_GlyphAddressOrDigitFault :
    15 < ((start [(0, 16)]).reg 0).toNat ∧ ((start [(0, 15)]).reg 0).toNat ≤ 15 := by decide

theorem witness_DecimalDigitsAreStored :
    (start [] 0xFFD).i.toNat + 2 < 4096 ∧ 4096 ≤ (start [] 0xFFE).i.toNat + 2 := by decide

/-- For RegistersAreStored, RegistersAreLoaded and LoadBringsBackWhatWasStored. -/
theorem witness_RegistersAreStored :
    (start [] 0xFF0).i.toNat + (15 : Reg).toNat < 4096 ∧ 4096 ≤ (start [] 0xFF1).i.toNat + (15 : Reg).toNat ∧
      (start [] 0xFFF).i.toNat + (0 : Reg).toNat < 4096 ∧ 4096 ≤ (start [] 0x1000).i.toNat + (0 : Reg).toNat := by decide

theorem witness_LoadBringsBackWhatWasStored :
    ∃ t u : State, exec (.ldMemVx 1) (start [(0, 7), (1, 8)] 0xFFE) = .next t ∧ u.mem = t.mem ∧
      u.i = (start [(0, 7), (1, 8)] 0xFFE).i :=
  ⟨_, (start [] 0xFFE).setMem _, rfl, rfl, rfl⟩

/-! A sprite of one row, 0x80, at the last address of memory, drawn at column 63 of row 31. -/

/-- The state before that draw. -/
def beforeDrw : State := bytes 0xFFF [0x80] (start [(0, 63), (1, 31)] 0xFFF)

theorem beforeDrw_fb : beforeDrw.fb = blankFramebuffer := by
  simp only [beforeDrw, bytes, start, regs, List.foldl, State.setMem_fb, State.setI_fb, State.setReg_fb]
  rfl

theorem beforeDrw_dark (c : Fin 64) (r : Fin 32) : pixel beforeDrw.fb c r = false := by
  rw [beforeDrw_fb]
  simp [pixel, blankFramebuffer]

/-- Its operands are in range; it inverts the pixel (63, 31) and not (0, 0). -/
theorem witness_DrawInvertsTheSpritePixels :
    (∀ k < (1 : Nibble).toNat, effectiveAddr beforeDrw k < 4096) ∧
      (∀ k < (0 : Nibble).toNat, effectiveAddr (start [] 0x1000) k < 4096) ∧
      DrawInverts beforeDrw 0 1 1 63 31 ∧ ¬ DrawInverts beforeDrw 0 1 1 0 0 :=
  ⟨by decide, by decide, ⟨0, by decide, 0, by decide, by decide, by decide, by decide⟩,
    fun ⟨k, hk, j, _, _, hr, _⟩ => absurd hr (by
      have : ((beforeDrw.reg 1).toNat % 32) = 31 := by decide
      simp only [this, Fin.val_zero]
      omega)⟩

/-- With the pixel lit before there is a collision; with nothing lit there is none. -/
theorem witness_DrawInvertsTheSpritePixels_flag :
    pixel (lit 255 0x01 beforeDrw).fb 63 31 = true ∧ DrawInverts (lit 255 0x01 beforeDrw) 0 1 1 63 31 ∧
      ¬ ∃ c r, pixel beforeDrw.fb c r = true ∧ DrawInverts beforeDrw 0 1 1 c r :=
  ⟨by decide +kernel, ⟨0, by decide, 0, by decide, by decide, by decide, by decide⟩,
    fun ⟨c, r, h, _⟩ => Bool.false_ne_true ((beforeDrw_dark c r).symm.trans h)⟩

theorem witness_DrawingTwiceRestoresThePicture :
    ∃ t u : State, exec (.drw 0 1 1) beforeDrw = .next t ∧ u.fb = t.fb ∧ u.mem = beforeDrw.mem ∧
      u.i = beforeDrw.i ∧ u.reg 2 = beforeDrw.reg 0 ∧ u.reg 3 = beforeDrw.reg 1 :=
  ⟨_, (regs [(2, 63), (3, 31)] beforeDrw).setFb _, rfl, rfl, rfl, rfl, by decide, by decide⟩

theorem witness_SkipsOnAHeldKey :
    15 < ((start [(0, 16)]).reg 0).toNat ∧ (15 : Nibble).toNat = ((start [(0, 15)]).reg 0).toNat := by decide

theorem witness_BootPlacesFontAndRom :
    (List.replicate 3584 (0 : Byte)).length ≤ 3584 ∧ ([] : List Byte).length ≤ 3584 :=
  ⟨by rw [List.length_replicate], Nat.zero_le _⟩

theorem witness_OversizedRomNeverRuns : 3584 < (List.replicate 3585 (0 : Byte)).length := by
  rw [List.length_replicate]; decide

end Sys2Proof.Tests
end

section
/-! The statements of 20_memory.md: one byte written and read (R41, R42), and the fetch (R43). -/

namespace Sys2Proof.Machine

@[simp] theorem memRead_of_lt (m : Memory) {a : Nat} (h : a < 4096) :
    memRead m a = .ok (Memory.read m a) := if_pos h

@[simp] theorem memRead_of_le (m : Memory) {a : Nat} (h : 4096 ≤ a) :
    memRead m a = .error (.memoryOutOfRange a) := if_neg (Nat.not_lt.2 h)

@[simp] theorem memWrite_of_lt (m : Memory) {a : Nat} (b : Byte) (h : a < 4096) :
    memWrite m a b = .ok (Memory.write m a b) := if_pos h

@[simp] theorem memWrite_of_le (m : Memory) {a : Nat} (b : Byte) (h : 4096 ≤ a) :
    memWrite m a b = .error (.memoryOutOfRange a) := if_neg (Nat.not_lt.2 h)

/-- The bound check does not look at the memory, so a write elsewhere leaves the whole outcome as it was,
the fault of an address out of range included. -/
theorem memRead_write_of_ne (m : Memory) {a c : Nat} (b : Byte) (h : c ≠ a) :
    memRead (Memory.write m a b) c = memRead m c := by
  simp only [memRead, Memory.read_write, if_neg h]

/-- Settles O5, by `Memory.read_write` below the bound and by the two bound checks from it on. -/
theorem memoryWriteThenRead : Obligations.MemoryWriteThenRead := by
  intro m a b
  refine ⟨fun h => ⟨Memory.write m a b, memWrite_of_lt m b h, ?_, fun c => memRead_write_of_ne m b⟩,
    fun h => ⟨memWrite_of_le m b h, memRead_of_le m h⟩⟩
  rw [memRead_of_lt _ h, Memory.read_write, if_pos rfl]

/-- Settles O6: `fetch_eq_ok` gives the word of the two bytes and `toNat_wordOfBytes` its value. -/
theorem fetchIsBigEndianAndBounded : Obligations.FetchIsBigEndianAndBounded := by
  intro s
  refine ⟨fun h => ?_, fetch_error⟩
  exact ⟨_, _, _, fetch_eq_ok.2 ⟨h, rfl⟩, memRead_of_lt _ (by omega), memRead_of_lt _ (by omega),
    toNat_wordOfBytes _ _⟩

end Sys2Proof.Machine
end

section
/-! The statements of 41_control_flow.md about RET, the jumps and the register skips (R101, R102, R104 to R108). -/

namespace Sys2Proof.Machine

theorem exec_ret_of_pos {s : State} (h : 0 < s.sp.val) :
    exec .ret s =
      .next (State.jump s.stk[s.sp.val - 1] { s with sp := ⟨s.sp.val - 1, by omega⟩ }) := by
  simp only [exec, execRet, State.pop_ok h]

theorem exec_ret_of_empty {s : State} (h : s.sp.val = 0) :
    exec .ret s = .fault (.stackUnderflow s.pc) := by
  simp only [exec, execRet, State.pop_empty h, raise]

@[simp] theorem exec_jp (nnn : Addr) (s : State) : exec (.jp nnn) s = .next (s.jump (zextAddr nnn)) := rfl

@[simp] theorem exec_jpV0Nnn (nnn : Addr) (s : State) :
    exec (.jpV0Nnn nnn) s = .next (s.jump (offsetTarget nnn s)) := rfl

@[simp] theorem exec_seVxNn (x : Reg) (nn : Byte) (s : State) :
    exec (.seVxNn x nn) s = .next (s.skipIf (s.reg x == nn)) := rfl

@[simp] theorem exec_sneVxNn (x : Reg) (nn : Byte) (s : State) :
    exec (.sneVxNn x nn) s = .next (s.skipIf (s.reg x != nn)) := rfl

@[simp] theorem exec_seVxVy (x y : Reg) (s : State) :
    exec (.seVxVy x y) s = .next (s.skipIf (s.reg x == s.reg y)) := rfl

@[simp] theorem exec_sneVxVy (x y : Reg) (s : State) :
    exec (.sneVxVy x y) s = .next (s.skipIf (s.reg x != s.reg y)) := rfl

/-- The skip of R109, with its condition as a proposition instead of the Boolean that the handlers compute. -/
theorem State.skipIf_of_iff {c : Bool} {p : Prop} [Decidable p] (h : c = true ↔ p) (s : State) :
    s.skipIf c = { s with pc := s.pc + if p then 4 else 2 } := by
  simp only [State.skipIf, h]

/-- Settles O29, by the two outcomes of the pop: at SP 0 it raises, above it the popped slot goes to PC. -/
theorem returnPopsIntoPc : Obligations.ReturnPopsIntoPc := by
  intro s
  exact ⟨exec_ret_of_empty, fun h => ⟨_, exec_ret_of_pos h, rfl, rfl, rfl⟩⟩

/-- Settles O30: the target is nnn zero-extended, which keeps its value (`zextAddr_toNat`). -/
theorem jumpSetsPc : Obligations.JumpSetsPc := by
  intro nnn s
  exact ⟨_, exec_jp nnn s, zextAddr_toNat nnn, rfl⟩

/-- Settles O33: both are the skip, one on `==`, the other on `!=`. -/
theorem skipsOnAnImmediate : Obligations.SkipsOnAnImmediate := by
  intro x nn s
  rw [exec_seVxNn, exec_sneVxNn]
  exact ⟨congrArg _ (s.skipIf_of_iff beq_iff_eq), congrArg _ (s.skipIf_of_iff bne_iff_ne)⟩

/-- Settles O34: both are the skip, one on `==`, the other on `!=`. -/
theorem skipsOnTwoRegisters : Obligations.SkipsOnTwoRegisters := by
  intro x y s
  rw [exec_seVxVy, exec_sneVxVy]
  exact ⟨congrArg _ (s.skipIf_of_iff beq_iff_eq), congrArg _ (s.skipIf_of_iff bne_iff_ne)⟩

/-- Settles O35: the 16-bit sum of nnn and V0 does not wrap (`offsetTarget_toNat`). -/
theorem jumpWithOffsetAddsV0 : Obligations.JumpWithOffsetAddsV0 := by
  intro nnn s
  exact ⟨_, exec_jpV0Nnn nnn s, offsetTarget_toNat nnn s, rfl⟩

end Sys2Proof.Machine
end

section
/-! The statements of 42_alu.md about the loads, the immediate addition and the logic (R121 to R126), from what
the two shared ends of the family do: a register write, and a result followed by the flag. -/

namespace Sys2Proof.Machine

@[simp] theorem exec_ldVxNn (x : Reg) (nn : Byte) (s : State) :
    exec (.ldVxNn x nn) s = .next (s.setReg x nn).advance := rfl

@[simp] theorem exec_addVxNn (x : Reg) (nn : Byte) (s : State) :
    exec (.addVxNn x nn) s = .next (s.setReg x (s.reg x + nn)).advance := rfl

@[simp] theorem exec_ldVxVy (x y : Reg) (s : State) :
    exec (.ldVxVy x y) s = .next (s.setReg x (s.reg y)).advance := rfl

@[simp] theorem exec_or (x y : Reg) (s : State) :
    exec (.or x y) s = .next (s.finishWithFlag x (s.reg x ||| s.reg y) false) := rfl

@[simp] theorem exec_and (x y : Reg) (s : State) :
    exec (.and x y) s = .next (s.finishWithFlag x (s.reg x &&& s.reg y) false) := rfl

@[simp] theorem exec_xor (x y : Reg) (s : State) :
    exec (.xor x y) s = .next (s.finishWithFlag x (s.reg x ^^^ s.reg y) false) := rfl

section
variable (s : State)

theorem State.reg_setReg_self (x : Reg) (b : Byte) : (s.setReg x b).reg x = b := by
  rw [State.reg_setReg, if_pos rfl]

theorem State.reg_setReg_of_ne {x r : Reg} (b : Byte) (h : r ≠ x) : (s.setReg x b).reg r = s.reg r := by
  rw [State.reg_setReg, if_neg h]

/-- A register write and the PC step keep every other field. -/
theorem State.advance_setReg_eq (x : Reg) (b : Byte) :
    (s.setReg x b).advance = { s with v := (s.setReg x b).advance.v, pc := s.pc + 2 } := rfl

theorem State.reg_finishWithFlag_vf (x : Reg) (b : Byte) (c : Bool) :
    (s.finishWithFlag x b c).reg 0xF = if c then 1 else 0 := by
  rw [State.reg_finishWithFlag, if_pos rfl]

theorem State.reg_finishWithFlag_dest {x : Reg} (b : Byte) (c : Bool) (h : x ≠ 0xF) :
    (s.finishWithFlag x b c).reg x = b := by
  rw [State.reg_finishWithFlag, if_neg h, if_pos rfl]

theorem State.reg_finishWithFlag_of_ne {x r : Reg} (b : Byte) (c : Bool) (hx : r ≠ x) (hf : r ≠ 0xF) :
    (s.finishWithFlag x b c).reg r = s.reg r := by
  rw [State.reg_finishWithFlag, if_neg hf, if_neg hx]

/-- A result with a flag keeps every field other than V and PC. -/
theorem State.finishWithFlag_eq (x : Reg) (b : Byte) (c : Bool) :
    s.finishWithFlag x b c = { s with v := (s.finishWithFlag x b c).v, pc := s.pc + 2 } := rfl

/-- An instruction that ends in a result b and the flag 0 leaves the bits of b in Vx unless x is F, VF 0, and
everything else but PC as before (R120, R124 to R126). -/
theorem exec_clears_vf {i : Instr} {x : Reg} {b : Byte} {bit : Nat → Bool}
    (hi : exec i s = .next (s.finishWithFlag x b false)) (hb : ∀ k, b.getLsbD k = bit k) :
    ∃ t, exec i s = .next t ∧ t.reg 0xF = 0 ∧ (x ≠ 0xF → ∀ k, (t.reg x).getLsbD k = bit k) ∧
      (∀ r, r ≠ x → r ≠ 0xF → t.reg r = s.reg r) ∧ t = { s with v := t.v, pc := s.pc + 2 } := by
  refine ⟨_, hi, s.reg_finishWithFlag_vf x b false, fun hx k => ?_,
    fun r => s.reg_finishWithFlag_of_ne b false, s.finishWithFlag_eq x b false⟩
  rw [s.reg_finishWithFlag_dest b false hx, hb]

end

/-- Settles O36: each of the three is one register write and the PC step. -/
theorem loadsAndImmediateAddTouchNoFlag : Obligations.LoadsAndImmediateAddTouchNoFlag := by
  intro x y nn s
  refine ⟨⟨_, exec_ldVxNn x nn s, s.reg_setReg_self x _, fun r => s.reg_setReg_of_ne _,
      s.advance_setReg_eq x _⟩,
    ⟨_, exec_addVxNn x nn s, ?_, fun r => s.reg_setReg_of_ne _, s.advance_setReg_eq x _⟩,
    ⟨_, exec_ldVxVy x y s, s.reg_setReg_self x _, fun r => s.reg_setReg_of_ne _,
      s.advance_setReg_eq x _⟩⟩
  rw [State.reg_advance, State.reg_setReg_self, BitVec.toNat_add]

/-- Settles O37: each of the three is its bitwise result followed by the flag 0, so one bit of Vx is the
operation on one bit of each operand. -/
theorem logicClearsTheFlag : Obligations.LogicClearsTheFlag := by
  intro x y s
  exact ⟨exec_clears_vf s (exec_or x y s) fun _ => BitVec.getLsbD_or,
    exec_clears_vf s (exec_and x y s) fun _ => BitVec.getLsbD_and,
    exec_clears_vf s (exec_xor x y s) fun _ => BitVec.getLsbD_xor⟩

end Sys2Proof.Machine
end

section
/-! The statements of 43_index_memory.md about the loads of I (R141, R143) and the memory transfers (R144 to
R146). A transfer has two outcomes, by whether its last address is in range, and both are said once: what a block
leaves at and beside its addresses, and that the fault is at the first address out of range. -/

namespace Sys2Proof.Machine

theorem Memory.read_load_of_lt (m : Memory) (a : Nat) {bs : List Byte} {k : Nat} (h : k < bs.length) :
    Memory.read (Memory.load m a bs) (a + k) = bs.getD k 0 := by
  rw [Memory.read_load, if_pos (by omega), Nat.add_sub_cancel_left]

theorem Memory.read_load_of_outside (m : Memory) {a c : Nat} {bs : List Byte}
    (h : c < a ∨ a + bs.length ≤ c) : Memory.read (Memory.load m a bs) c = Memory.read m c := by
  rw [Memory.read_load, if_neg (by omega)]

/-- Byte k of a block read from a is the byte at a + k. -/
theorem getD_map_read_range' (m : Memory) (a : Nat) {n k : Nat} (h : k < n) :
    ((List.range' a n).map (Memory.read m)).getD k 0 = Memory.read m (a + k) := by
  simp [List.getD_eq_getElem?_getD, h]

/-- The address at which a block that leaves the address space faults is the first of its addresses out of
range. -/
theorem firstOutOfRange_max {s : State} {n : Nat} (hn : 0 < n) (h : memSize < s.i.toNat + n) :
    firstOutOfRange s n (.memoryOutOfRange (max s.i.toNat memSize)) := by
  simp only [memSize] at h ⊢
  refine ⟨max s.i.toNat 4096 - s.i.toNat, by omega, by omega, fun j hj => by omega, ?_⟩
  rw [Nat.add_sub_cancel' (Nat.le_max_left _ _)]

/-- I + 1 does not wrap where I is an address in range. -/
theorem toNat_add_one_of_lt_memSize {i : Word} (h : i.toNat < memSize) : (i + 1).toNat = i.toNat + 1 := by
  simp only [memSize] at h
  bv_omega

section
variable {s : State} (x : Reg)

@[simp] theorem exec_ldINnn (nnn : Addr) (s : State) :
    exec (.ldINnn nnn) s = .next (s.setI (zextAddr nnn)).advance := rfl

theorem exec_ldFVx_of_le (h : (s.reg x).toNat ≤ 15) :
    exec (.ldFVx x) s = .next (s.setI (glyphAddr (s.reg x).toNat)).advance := by
  simp only [exec, execLdFVx, digitOperand_ok h]

theorem exec_ldFVx_of_gt (h : 15 < (s.reg x).toNat) :
    exec (.ldFVx x) s = .fault (.digitOutOfRange (s.reg x)) := by
  simp only [exec, execLdFVx, digitOperand_error h, raise]

theorem exec_ldBVx_inside (h : s.i.toNat + 3 ≤ memSize) :
    exec (.ldBVx x) s =
      .next (s.setMem (Memory.load s.mem s.i.toNat (decimalDigits (s.reg x)))).advance := by
  simp only [exec, execLdBVx, effectiveAddr_zero, writeBytes_ok s.mem (bs := decimalDigits (s.reg x)) h]

theorem exec_ldBVx_outside (h : memSize < s.i.toNat + 3) :
    exec (.ldBVx x) s = .fault (.memoryOutOfRange (max s.i.toNat memSize)) := by
  simp only [exec, execLdBVx, effectiveAddr_zero, raise,
    writeBytes_error s.mem (bs := decimalDigits (s.reg x)) (List.cons_ne_nil _ _) h]

theorem exec_ldMemVx_inside (h : s.i.toNat + (x.toNat + 1) ≤ memSize) :
    exec (.ldMemVx x) s =
      .next ((s.setMem (Memory.load s.mem s.i.toNat (s.regsUpTo x))).setI (s.i + 1)).advance := by
  rw [← s.length_regsUpTo x] at h
  simp only [exec, execLdMemVx, effectiveAddr_zero, writeBytes_ok s.mem h]

theorem exec_ldMemVx_outside (h : memSize < s.i.toNat + (x.toNat + 1)) :
    exec (.ldMemVx x) s = .fault (.memoryOutOfRange (max s.i.toNat memSize)) := by
  have hne : s.regsUpTo x ≠ [] := List.ne_nil_of_length_eq_add_one (s.length_regsUpTo x)
  rw [← s.length_regsUpTo x] at h
  simp only [exec, execLdMemVx, effectiveAddr_zero, writeBytes_error s.mem hne h, raise]

theorem exec_ldVxMem_inside (h : s.i.toNat + (x.toNat + 1) ≤ memSize) :
    exec (.ldVxMem x) s =
      .next ((s.setRegsFrom0 ((List.range' s.i.toNat (x.toNat + 1)).map (Memory.read s.mem))).setI
        (s.i + 1)).advance := by
  simp only [exec, execLdVxMem, effectiveAddr_zero, readBytes_ok s.mem h]

theorem exec_ldVxMem_outside (h : memSize < s.i.toNat + (x.toNat + 1)) :
    exec (.ldVxMem x) s = .fault (.memoryOutOfRange (max s.i.toNat memSize)) := by
  simp only [exec, execLdVxMem, effectiveAddr_zero, readBytes_error s.mem x.toNat.succ_pos h, raise]

end

theorem toNat_glyphAddr {d : Nat} (h : d ≤ 15) : (glyphAddr d).toNat = 5 * d := by
  rw [glyphAddr, BitVec.toNat_ofNat, Nat.mod_eq_of_lt (by omega)]

/-- Each decimal digit of a byte fits a byte. -/
theorem toNat_getD_decimalDigits (b : Byte) :
    ((decimalDigits b).getD 0 0).toNat = b.toNat / 100 ∧
      ((decimalDigits b).getD 1 0).toNat = b.toNat / 10 % 10 ∧
      ((decimalDigits b).getD 2 0).toNat = b.toNat % 10 := by
  have := b.isLt
  refine ⟨?_, ?_, ?_⟩ <;> exact (BitVec.toNat_ofNat _ _).trans (Nat.mod_eq_of_lt (by omega))

/-- Settles O44: the block of the three digits is stored from I on, or it faults. -/
theorem decimalDigitsAreStored : Obligations.DecimalDigitsAreStored := by
  intro x s
  constructor
  · intro h
    obtain ⟨hundreds, tens, ones⟩ := toNat_getD_decimalDigits (s.reg x)
    have hread : ∀ k < 3, Memory.read (Memory.load s.mem s.i.toNat (decimalDigits (s.reg x)))
        (effectiveAddr s k) = (decimalDigits (s.reg x)).getD k 0 := fun k hk =>
      Memory.read_load_of_lt s.mem s.i.toNat (bs := decimalDigits (s.reg x)) hk
    refine ⟨_, exec_ldBVx_inside x h, ?_, ?_, ?_, ?_, rfl⟩
    · exact (congrArg _ (hread 0 (by decide))).trans hundreds
    · exact (congrArg _ (hread 1 (by decide))).trans tens
    · exact (congrArg _ (hread 2 (by decide))).trans ones
    · exact fun a ha => Memory.read_load_of_outside s.mem (bs := decimalDigits (s.reg x)) ha
  · intro h
    exact ⟨_, exec_ldBVx_outside x (Nat.lt_succ_of_le h),
      firstOutOfRange_max (by decide) (Nat.lt_succ_of_le h)⟩

/-- Settles O45: the block of V0 to Vx is stored from I on, or it faults. -/
theorem registersAreStored : Obligations.RegistersAreStored := by
  intro x s
  constructor
  · intro h
    have hlen := s.length_regsUpTo x
    refine ⟨_, exec_ldMemVx_inside x h, fun k hk => ?_, fun a ha => ?_,
      toNat_add_one_of_lt_memSize (Nat.lt_of_le_of_lt (Nat.le_add_right _ _) h), rfl⟩
    · exact (Memory.read_load_of_lt s.mem s.i.toNat (by omega)).trans (s.getD_regsUpTo x k hk)
    · simp only [effectiveAddr] at ha
      exact Memory.read_load_of_outside s.mem (by omega)
  · intro h
    exact ⟨_, exec_ldMemVx_outside x (Nat.lt_succ_of_le h),
      firstOutOfRange_max x.toNat.succ_pos (Nat.lt_succ_of_le h)⟩

/-- Settles O46: the block read from I on goes to V0 to Vx, or it faults. -/
theorem registersAreLoaded : Obligations.RegistersAreLoaded := by
  intro x s
  constructor
  · intro h
    refine ⟨_, exec_ldVxMem_inside x h, fun k hk => ?_, fun r hr => ?_,
      toNat_add_one_of_lt_memSize (Nat.lt_of_le_of_lt (Nat.le_add_right _ _) h), rfl⟩
    · rw [State.reg_advance, State.reg_setI, State.reg_setRegsFrom0, List.length_map, List.length_range',
        if_pos (by omega), getD_map_read_range' _ _ (by omega)]
      rfl
    · rw [State.reg_advance, State.reg_setI, State.reg_setRegsFrom0, List.length_map, List.length_range',
        if_neg (by omega)]
  · intro h
    exact ⟨_, exec_ldVxMem_outside x (Nat.lt_succ_of_le h),
      firstOutOfRange_max x.toNat.succ_pos (Nat.lt_succ_of_le h)⟩

/-- Settles O41: I is nnn zero-extended, which keeps its value (`zextAddr_toNat`). -/
theorem loadIndexSetsI : Obligations.LoadIndexSetsI := by
  intro nnn s
  exact ⟨_, exec_ldINnn nnn s, zextAddr_toNat nnn, rfl⟩

/-- Settles O43, by the two outcomes of the digit's range check. -/
theorem glyphAddressOrDigitFault : Obligations.GlyphAddressOrDigitFault := by
  intro x s
  exact ⟨exec_ldFVx_of_gt x, fun h => ⟨_, exec_ldFVx_of_le x h, toNat_glyphAddr h, rfl⟩⟩

end Sys2Proof.Machine
end

section
/-! The statement of 44_display.md about the clear (R161). -/

namespace Sys2Proof.Machine

@[simp] theorem exec_cls (s : State) : exec .cls s = .next (s.setFb blankFramebuffer).advance := rfl

@[simp] theorem getElem_blankFramebuffer (a : Fin 256) : blankFramebuffer[a] = 0 :=
  Vector.getElem_replicate a.isLt

/-- Settles O48: the picture that CLS puts in place is blank, and it writes no other field but PC. -/
theorem clearUnlightsEveryPixel : Obligations.ClearUnlightsEveryPixel := by
  intro s
  exact ⟨_, exec_cls s, getElem_blankFramebuffer, rfl⟩

end Sys2Proof.Machine
end

section
/-! The statement of 45_keypad_timer_random.md about the timers (R184 to R186). -/

namespace Sys2Proof.Machine

@[simp] theorem exec_ldVxDt (x : Reg) (s : State) :
    exec (.ldVxDt x) s = .next (s.setReg x s.dt).advance := rfl

@[simp] theorem exec_ldDtVx (x : Reg) (s : State) :
    exec (.ldDtVx x) s = .next (s.setDt (s.reg x)).advance := rfl

@[simp] theorem exec_ldStVx (x : Reg) (s : State) :
    exec (.ldStVx x) s = .next (s.setSt (s.reg x)).advance := rfl

/-- Settles O54: the read of DT is one register write, and the two others are one timer write each, all
followed by the PC step. -/
theorem timerAccessCopies : Obligations.TimerAccessCopies := by
  intro x s
  exact ⟨⟨_, exec_ldVxDt x s, s.reg_setReg_self x s.dt, fun r => s.reg_setReg_of_ne s.dt,
      s.advance_setReg_eq x s.dt⟩,
    exec_ldDtVx x s, exec_ldStVx x s⟩

end Sys2Proof.Machine
end

section
/-! The statement of 60_exceptions.md about the timers (R213, R214): what a tick does to them, and that of the
instructions only LD DT and LD ST write them. For the second part, an instruction that can fault is known by the
operation that succeeded when it goes on. -/

namespace Sys2Proof.Machine

/-! ### The countdown -/

theorem toNat_countDown (b : Byte) : (countDown b).toNat = b.toNat.pred := by
  unfold countDown
  split
  · next h => rw [h]; rfl
  · next h => rw [Nat.pred_eq_sub_one]; bv_omega

/-- A byte that every frame tick counts down has lost n after n ticks, down to 0 and no further. -/
theorem toNat_iterate_frameTick {timer : State → Byte}
    (h : ∀ s, timer (frameTick s) = countDown (timer s)) (n : Nat) (s : State) :
    (timer (frameTick^[n] s)).toNat = (timer s).toNat - n := by
  have hpred : Function.Semiconj (fun s => (timer s).toNat) frameTick Nat.pred := fun s =>
    (congrArg _ (h s)).trans (toNat_countDown _)
  calc (timer (frameTick^[n] s)).toNat
      _ = Nat.pred^[n] (timer s).toNat := hpred.iterate_right n s
      _ = (timer s).toNat - n := Nat.pred_iterate _ n

/-! ### Instructions that can fault, where they go on -/

section
variable {s t : State} {x y : Reg}

theorem exec_ret_next (h : exec .ret s = .next t) : ∃ p, s.pop = .ok p ∧ t = p.2.jump p.1 := by
  simp only [exec, execRet, raise] at h
  split at h <;> cases h
  exact ⟨_, ‹_›, rfl⟩

theorem exec_call_next {nnn : Addr} (h : exec (.call nnn) s = .next t) :
    ∃ u, s.push (s.pc + 2) = .ok u ∧ t = u.jump (zextAddr nnn) := by
  simp only [exec, execCall, raise] at h
  split at h <;> cases h
  exact ⟨_, ‹_›, rfl⟩

theorem exec_drw_next {n : Nibble} (h : exec (.drw x y n) s = .next t) :
    ∃ rows, readBytes s.mem s.i.toNat n.toNat = .ok rows ∧
      t = let d := blitRows (startColumn (s.reg x)) (startRow (s.reg y)) rows ⟨s.fb, false⟩
        ((s.setFb d.fb).setFlag d.collision).advance := by
  simp only [exec, execDrw, effectiveAddr_zero, raise] at h
  split at h <;> cases h
  exact ⟨_, ‹_›, rfl⟩

theorem exec_skp_next (h : exec (.skp x) s = .next t) :
    ∃ k, keyOperand (s.reg x) = .ok k ∧ t = (s.askHeld k).2.skipIf (s.askHeld k).1 := by
  simp only [exec, execSkp, raise] at h
  split at h <;> cases h
  exact ⟨_, ‹_›, rfl⟩

theorem exec_sknp_next (h : exec (.sknp x) s = .next t) :
    ∃ k, keyOperand (s.reg x) = .ok k ∧ t = (s.askHeld k).2.skipIf (!(s.askHeld k).1) := by
  simp only [exec, execSknp, raise] at h
  split at h <;> cases h
  exact ⟨_, ‹_›, rfl⟩

theorem exec_ldFVx_next (h : exec (.ldFVx x) s = .next t) :
    ∃ d, digitOperand (s.reg x) = .ok d ∧ t = (s.setI (glyphAddr d)).advance := by
  simp only [exec, execLdFVx, raise] at h
  split at h <;> cases h
  exact ⟨_, ‹_›, rfl⟩

theorem exec_ldBVx_next (h : exec (.ldBVx x) s = .next t) :
    ∃ m, writeBytes s.mem s.i.toNat (decimalDigits (s.reg x)) = .ok m ∧ t = (s.setMem m).advance := by
  simp only [exec, execLdBVx, effectiveAddr_zero, raise] at h
  split at h <;> cases h
  exact ⟨_, ‹_›, rfl⟩

theorem exec_ldMemVx_next (h : exec (.ldMemVx x) s = .next t) :
    ∃ m, writeBytes s.mem s.i.toNat (s.regsUpTo x) = .ok m ∧
      t = ((s.setMem m).setI (s.i + 1)).advance := by
  simp only [exec, execLdMemVx, effectiveAddr_zero, raise] at h
  split at h <;> cases h
  exact ⟨_, ‹_›, rfl⟩

theorem exec_ldVxMem_next (h : exec (.ldVxMem x) s = .next t) :
    ∃ bs, readBytes s.mem s.i.toNat (x.toNat + 1) = .ok bs ∧
      t = ((s.setRegsFrom0 bs).setI (s.i + 1)).advance := by
  simp only [exec, execLdVxMem, effectiveAddr_zero, raise] at h
  split at h <;> cases h
  exact ⟨_, ‹_›, rfl⟩

end

/-- A pop moves SP and changes nothing else. -/
theorem State.pop_frame {s : State} {p : Word × State} (h : s.pop = .ok p) :
    p.2 = { s with sp := p.2.sp } := by
  rcases Nat.eq_zero_or_pos s.sp.val with h0 | h0
  · rw [State.pop_empty h0] at h; cases h
  · rw [State.pop_ok h0] at h; cases h; rfl

/-- A push writes the stack and SP and changes nothing else. -/
theorem State.push_frame {s u : State} {a : Word} (h : s.push a = .ok u) :
    u = { s with stk := u.stk, sp := u.sp } := by
  rcases Nat.lt_or_ge s.sp.val 16 with h16 | h16
  · rw [State.push_ok a h16] at h; cases h; rfl
  · rw [State.push_full a (by omega)] at h; cases h

@[simp] theorem State.takeKey_dt (x : Reg) (k : Option Nibble) (s : State) : (s.takeKey x k).dt = s.dt := by
  cases k <;> rfl

@[simp] theorem State.takeKey_st (x : Reg) (k : Option Nibble) (s : State) : (s.takeKey x k).st = s.st := by
  cases k <;> rfl

/-! ### The timers after an instruction -/

/-- DT and ST after an instruction that goes on: LD DT and LD ST write one each, every other neither. -/
def timersAfter (s : State) : Instr → Byte × Byte
  | .ldDtVx x => (s.reg x, s.st)
  | .ldStVx x => (s.dt, s.reg x)
  | _ => (s.dt, s.st)

theorem timersAfter_fst_of_ne {i : Instr} (s : State) (h : ∀ x, i ≠ .ldDtVx x) :
    (timersAfter s i).1 = s.dt := by
  unfold timersAfter
  split
  · exact absurd rfl (h _)
  · rfl
  · rfl

theorem timersAfter_snd_of_ne {i : Instr} (s : State) (h : ∀ x, i ≠ .ldStVx x) :
    (timersAfter s i).2 = s.st := by
  unfold timersAfter
  split
  · rfl
  · exact absurd rfl (h _)
  · rfl

theorem exec_timers {i : Instr} {s t : State} (h : exec i s = .next t) :
    (t.dt, t.st) = timersAfter s i := by
  cases i with
  | ret =>
    obtain ⟨p, hpop, rfl⟩ := exec_ret_next h
    rw [State.pop_frame hpop]; rfl
  | call nnn =>
    obtain ⟨u, hpush, rfl⟩ := exec_call_next h
    rw [State.push_frame hpush]; rfl
  | drw x y n => obtain ⟨_, _, rfl⟩ := exec_drw_next h; rfl
  | skp x => obtain ⟨_, _, rfl⟩ := exec_skp_next h; rfl
  | sknp x => obtain ⟨_, _, rfl⟩ := exec_sknp_next h; rfl
  | ldFVx x => obtain ⟨_, _, rfl⟩ := exec_ldFVx_next h; rfl
  | ldBVx x => obtain ⟨_, _, rfl⟩ := exec_ldBVx_next h; rfl
  | ldMemVx x => obtain ⟨_, _, rfl⟩ := exec_ldMemVx_next h; rfl
  | ldVxMem x => obtain ⟨_, _, rfl⟩ := exec_ldVxMem_next h; rfl
  | ldVxK x =>
    obtain rfl := Host.Outcome.next.inj h
    rw [State.takeKey_dt, State.takeKey_st]; rfl
  | cls | jp | seVxNn | sneVxNn | seVxVy | ldVxNn | addVxNn | ldVxVy | or | and | xor | addVxVy | sub | shr
  | subn | shl | sneVxVy | ldINnn | jpV0Nnn | rnd | ldVxDt | ldDtVx | ldStVx | addIVx =>
    obtain rfl := Host.Outcome.next.inj h
    rfl

/-- Settles O11: a tick takes the predecessor of each timer (`toNat_iterate_frameTick`), and `exec_timers` says
what each timer is after an instruction. -/
theorem timersCountDownAndStayAtZero : Obligations.TimersCountDownAndStayAtZero := by
  refine ⟨fun s n => ⟨toNat_iterate_frameTick frameTick_dt n s, toNat_iterate_frameTick frameTick_st n s⟩,
    fun i s t h => ?_⟩
  obtain ⟨hdt, hst⟩ := Prod.mk.inj (exec_timers h)
  exact ⟨fun hi => hdt.trans (timersAfter_fst_of_ne s hi), fun hi => hst.trans (timersAfter_snd_of_ne s hi)⟩

end Sys2Proof.Machine
end

section
/-! The statements of 30_encoding.md: decoder and encoder undo each other (R61, R67), and the decoder refuses
exactly the unknown words (R68, R69). Each tier of the decoder is treated once. -/

namespace Sys2Proof

/-! ### Decoding what was encoded -/

theorem decodeWord_encodeWord (i : Instr) : decodeWord (encodeWord i) = .ok i := by
  cases i with
  | cls | ret => rfl
  | jp | call | ldINnn | jpV0Nnn => simp [encodeWord, decodeWord, fieldClass, fieldNNN]
  | seVxNn | sneVxNn | ldVxNn | addVxNn | rnd =>
    simp [encodeWord, decodeWord, fieldClass, fieldX, fieldNN]
  | seVxVy | sneVxVy =>
    simp [encodeWord, decodeWord, decodeSkipRegisters, fieldClass, fieldX, fieldY, fieldN]
  | ldVxVy | or | and | xor | addVxVy | sub | shr | subn | shl =>
    simp [encodeWord, decodeWord, decodeClass8, fieldClass, fieldX, fieldY, fieldN]
  | drw => simp [encodeWord, decodeWord, fieldClass, fieldX, fieldY, fieldN]
  | skp | sknp => simp [encodeWord, decodeWord, decodeClassE, fieldClass, fieldX, fieldNN]
  | ldVxDt | ldVxK | ldDtVx | ldStVx | addIVx | ldFVx | ldBVx | ldMemVx | ldVxMem =>
    simp [encodeWord, decodeWord, decodeClassF, fieldClass, fieldX, fieldNN]

/-- Settles O2: the two bytes of a word give it back (`wordOfBytes_bytes`), and every word decodes to the
instruction that it encodes. -/
theorem decodeOfEncodeIsTheInstruction : Obligations.DecodeOfEncodeIsTheInstruction := by
  intro i rest
  simp only [encode, List.cons_append, List.nil_append, decode, wordOfBytes_bytes, decodeWord_encodeWord]

/-! ### Encoding what was decoded -/

/-- A word in format A is its class and its address field. -/
theorem formatA_fields {w : Word} {c : Nibble} (hc : (fieldClass w).toNat = c.toNat) :
    formatA c (fieldNNN w) = w := by
  obtain rfl := BitVec.eq_of_toNat_eq hc
  ext k hk
  by_cases h : k < 12
  · simp [formatA, fieldNNN, h, hk]
  · simp [formatA, fieldClass, fieldNNN, h, hk, show k - 12 < 4 by omega, Nat.add_sub_of_le (Nat.not_lt.1 h)]

/-- A word in format XI is its class, its register and its immediate. -/
theorem formatXI_fields {w : Word} {c : Nibble} {nn : Byte} (hc : (fieldClass w).toNat = c.toNat)
    (hnn : (fieldNN w).toNat = nn.toNat) : formatXI c (fieldX w) nn = w := by
  obtain rfl := BitVec.eq_of_toNat_eq hc
  obtain rfl := BitVec.eq_of_toNat_eq hnn
  ext k hk
  rcases (by omega : k < 8 ∨ 8 ≤ k ∧ k < 12 ∨ 12 ≤ k) with h | ⟨h, h'⟩ | h
  · simp [formatXI, fieldNN, h, hk, show k < 12 by omega]
  · simp [formatXI, fieldX, fieldNN, h', hk, Nat.not_lt.2 h, show k - 8 < 4 by omega, Nat.add_sub_of_le h]
  · simp [formatXI, fieldClass, fieldX, fieldNN, hk, Nat.not_lt.2 h, show ¬ k < 8 by omega,
      show ¬ k - 8 < 4 by omega, show k - 12 < 4 by omega, Nat.add_sub_of_le h]

/-- The low byte of a word is its second register and its low nibble. -/
theorem fieldY_or_fieldN (w : Word) :
    (fieldY w).setWidth 16 <<< 4 ||| (fieldN w).setWidth 16 = (fieldNN w).setWidth 16 := by
  ext k hk
  by_cases h : k < 4
  · simp [fieldN, fieldNN, h, hk, show k < 8 by omega]
  · simp [fieldY, fieldN, fieldNN, h, hk, show k - 4 < 4 ↔ k < 8 by omega,
      Nat.add_sub_of_le (Nat.not_lt.1 h)]

/-- A word in format XYN is its class and its three nibbles. -/
theorem formatXYN_fields {w : Word} {c n : Nibble} (hc : (fieldClass w).toNat = c.toNat)
    (hn : (fieldN w).toNat = n.toNat) : formatXYN c (fieldX w) (fieldY w) n = w := by
  obtain rfl := BitVec.eq_of_toNat_eq hn
  rw [formatXYN, BitVec.or_assoc, fieldY_or_fieldN]
  exact formatXI_fields hc rfl

section
variable {w : Word} {i : Instr}

theorem encodeWord_of_decodeTier2 (h : decodeTier2 w = .ok i) : encodeWord i = w := by
  unfold decodeTier2 at h
  split at h <;> cases h <;> exact (BitVec.eq_of_toNat_eq ‹_›).symm

theorem encodeWord_of_decodeSkipRegisters {j : Instr}
    (hj : (fieldN w).toNat = 0 → encodeWord j = w) (h : decodeSkipRegisters j w = .ok i) :
    encodeWord i = w := by
  unfold decodeSkipRegisters at h
  split at h <;> cases h
  exact hj ‹_›

theorem encodeWord_of_decodeClass8 (hc : (fieldClass w).toNat = 0x8) (h : decodeClass8 w = .ok i) :
    encodeWord i = w := by
  unfold decodeClass8 at h
  split at h <;> cases h <;> exact formatXYN_fields hc ‹_›

theorem encodeWord_of_decodeClassE (hc : (fieldClass w).toNat = 0xE) (h : decodeClassE w = .ok i) :
    encodeWord i = w := by
  unfold decodeClassE at h
  split at h <;> cases h <;> exact formatXI_fields hc ‹_›

theorem encodeWord_of_decodeClassF (hc : (fieldClass w).toNat = 0xF) (h : decodeClassF w = .ok i) :
    encodeWord i = w := by
  unfold decodeClassF at h
  split at h <;> cases h <;> exact formatXI_fields hc ‹_›

end

/-- Settles O3: each class of the decoder reads the fields of its format, and these are the whole word. -/
theorem encodeOfDecodeIsTheWord : Obligations.EncodeOfDecodeIsTheWord := by
  intro w i h
  unfold decodeWord at h
  split at h
  case h_1 hc => exact encodeWord_of_decodeTier2 h
  case h_9 hc => exact encodeWord_of_decodeClass8 hc h
  case h_6 hc | h_10 hc =>
    refine encodeWord_of_decodeSkipRegisters (fun hn => ?_) h
    exact formatXYN_fields hc hn
  case h_15 hc => exact encodeWord_of_decodeClassE hc h
  case h_16 hc => exact encodeWord_of_decodeClassF hc h
  case h_17 => cases h
  case h_2 hc | h_3 hc | h_11 hc | h_12 hc => cases h; exact formatA_fields hc
  case h_4 hc | h_5 hc | h_7 hc | h_8 hc | h_13 hc => cases h; exact formatXI_fields hc rfl
  case h_14 hc => cases h; exact formatXYN_fields hc rfl

/-! ### The words that the decoder refuses -/

/-- The outcome `r` of decoding `w` is an instruction where `c` holds, and elsewhere the refusal of `w` by name. -/
def DecodesIf (c : Bool) (w : Word) (r : Except Rejection Instr) : Prop :=
  if c then ∃ i, r = .ok i else r = .error (.unknownInstruction w)

section
variable (w : Word)

theorem decodesIf_ok (i : Instr) : DecodesIf true w (.ok i) := ⟨i, rfl⟩

theorem decodeTier2_decodesIf : DecodesIf (w.toNat ∈ [0x00E0, 0x00EE]) w (decodeTier2 w) := by
  unfold decodeTier2
  split <;> simp_all [DecodesIf]

theorem decodeSkipRegisters_decodesIf (i : Instr) :
    DecodesIf ((fieldN w).toNat ∈ [0x0]) w (decodeSkipRegisters i w) := by
  unfold decodeSkipRegisters
  split <;> simp_all [DecodesIf]

theorem decodeClass8_decodesIf :
    DecodesIf ((fieldN w).toNat ∈ [0x0, 0x1, 0x2, 0x3, 0x4, 0x5, 0x6, 0x7, 0xE]) w (decodeClass8 w) := by
  unfold decodeClass8
  split <;> simp_all [DecodesIf]

theorem decodeClassE_decodesIf : DecodesIf ((fieldNN w).toNat ∈ [0x9E, 0xA1]) w (decodeClassE w) := by
  unfold decodeClassE
  split <;> simp_all [DecodesIf]

theorem decodeClassF_decodesIf :
    DecodesIf ((fieldNN w).toNat ∈ [0x07, 0x0A, 0x15, 0x18, 0x1E, 0x29, 0x33, 0x55, 0x65]) w
      (decodeClassF w) := by
  unfold decodeClassF
  split <;> simp_all [DecodesIf]

end

/-- Settles O4: tier by tier, the decoder's choice is the check that `wellFormedWord` makes for the class. -/
theorem unknownWordsAreExactlyTheListed : Obligations.UnknownWordsAreExactlyTheListed := by
  intro w
  change DecodesIf (wellFormedWord w) w (decodeWord w)
  have hlt := (fieldClass w).isLt
  unfold decodeWord
  split <;> rename_i hc
  case h_17 =>
    simp only [imp_false] at *
    omega
  all_goals
    unfold fieldClass at hc
    rw [wellFormedWord, hc]
  case h_1 => exact decodeTier2_decodesIf w
  case h_6 | h_10 => exact decodeSkipRegisters_decodesIf w _
  case h_9 => exact decodeClass8_decodesIf w
  case h_15 => exact decodeClassE_decodesIf w
  case h_16 => exact decodeClassF_decodesIf w
  case h_2 | h_3 | h_4 | h_5 | h_7 | h_8 | h_11 | h_12 | h_13 | h_14 => exact decodesIf_ok w _

/-- Settles O1: the decoder, run on the nine words. -/
theorem wordsOfEveryFamilyDecode : Obligations.WordsOfEveryFamilyDecode := by
  unfold Obligations.WordsOfEveryFamilyDecode
  decide

end Sys2Proof
end

section
/-! The statements of 41_control_flow.md about CALL, and the pair of CALL and RET (R101, R103). -/

namespace Sys2Proof.Machine

section
variable {s : State} (nnn : Addr)

theorem exec_call_of_lt (h : s.sp.val < 16) :
    exec (.call nnn) s = .next (State.jump (zextAddr nnn)
      { s with stk := s.stk.set s.sp.val (s.pc + 2), sp := ⟨s.sp.val + 1, by omega⟩ }) := by
  simp only [exec, execCall, State.push_ok _ h]

theorem exec_call_of_full (h : s.sp.val = 16) : exec (.call nnn) s = .fault (.stackOverflow s.pc) := by
  simp only [exec, execCall, State.push_full _ h, raise]

end

/-- A RET that goes on had a return address to pop. -/
theorem eq_of_exec_ret_next {s t : State} (h : exec .ret s = .next t) :
    ∃ h0 : 0 < s.sp.val, t = State.jump s.stk[s.sp.val - 1] { s with sp := ⟨s.sp.val - 1, by omega⟩ } := by
  rcases Nat.eq_zero_or_pos s.sp.val with h0 | h0
  · rw [exec_ret_of_empty h0] at h; cases h
  · rw [exec_ret_of_pos h0] at h; cases h
    exact ⟨h0, rfl⟩

/-- A CALL that goes on had a free slot to write. -/
theorem eq_of_exec_call_next {nnn : Addr} {s t : State} (h : exec (.call nnn) s = .next t) :
    ∃ h16 : s.sp.val < 16, t = State.jump (zextAddr nnn)
      { s with stk := s.stk.set s.sp.val (s.pc + 2), sp := ⟨s.sp.val + 1, by omega⟩ } := by
  rcases Nat.lt_or_ge s.sp.val 16 with h16 | h16
  · rw [exec_call_of_lt nnn h16] at h; cases h
    exact ⟨h16, rfl⟩
  · rw [exec_call_of_full nnn (by omega)] at h; cases h

/-- Settles O31, by the two outcomes of the push: on a full stack it raises, below it writes the slot at SP. -/
theorem callPushesAndJumps : Obligations.CallPushesAndJumps := by
  intro nnn s
  refine ⟨exec_call_of_full nnn, fun h => ⟨_, exec_call_of_lt nnn h, ?_, fun k hk => ?_, rfl,
    zextAddr_toNat nnn, rfl⟩⟩
  · exact Vector.getElem_set_self h
  · exact Vector.getElem_set_ne h k.isLt hk.symm

/-- Settles O32: the slot that RET pops is the one that CALL wrote. -/
theorem returnUndoesCall : Obligations.ReturnUndoesCall := by
  intro nnn s h
  refine ⟨_, exec_call_of_lt nnn h, fun u hstk hsp => ?_⟩
  have hpos : u.sp.val = s.sp.val + 1 := congrArg Fin.val hsp
  refine ⟨_, exec_ret_of_pos (by omega), ?_, ?_⟩
  · simp only [State.jump_pc, hstk, hpos, Nat.add_sub_cancel]
    exact Vector.getElem_set_self h
  · exact Fin.ext (by simp only [State.jump_sp, hpos, Nat.add_sub_cancel])

end Sys2Proof.Machine
end

section
/-! The statements of 42_alu.md about the additions, subtractions and shifts of registers (R127 to R131), all of
which end in a result followed by the flag. -/

namespace Sys2Proof.Machine

@[simp] theorem exec_addVxVy (x y : Reg) (s : State) :
    exec (.addVxVy x y) s =
      .next (s.finishWithFlag x (s.reg x + s.reg y) (carry (s.reg x) (s.reg y))) := rfl

@[simp] theorem exec_sub (x y : Reg) (s : State) :
    exec (.sub x y) s =
      .next (s.finishWithFlag x (s.reg x - s.reg y) (noBorrow (s.reg x) (s.reg y))) := rfl

@[simp] theorem exec_subn (x y : Reg) (s : State) :
    exec (.subn x y) s =
      .next (s.finishWithFlag x (s.reg y - s.reg x) (noBorrow (s.reg y) (s.reg x))) := rfl

@[simp] theorem exec_shr (x y : Reg) (s : State) :
    exec (.shr x y) s = .next (s.finishWithFlag x (s.reg y >>> 1) (bitOutRight (s.reg y))) := rfl

@[simp] theorem exec_shl (x y : Reg) (s : State) :
    exec (.shl x y) s = .next (s.finishWithFlag x (s.reg y <<< 1) (bitOutLeft (s.reg y))) := rfl

/-- An instruction that ends in a result b and the flag c leaves c in VF, b in Vx unless x is F, and everything
else but PC as before (R120). -/
theorem exec_finishes_with_flag {i : Instr} {s : State} {x : Reg} {b : Byte} {c : Bool}
    (hi : exec i s = .next (s.finishWithFlag x b c)) :
    ∃ t, exec i s = .next t ∧ t.reg 0xF = (if c then 1 else 0) ∧ (x ≠ 0xF → t.reg x = b) ∧
      (∀ r, r ≠ x → r ≠ 0xF → t.reg r = s.reg r) ∧ t = { s with v := t.v, pc := s.pc + 2 } :=
  ⟨_, hi, s.reg_finishWithFlag_vf x b c, s.reg_finishWithFlag_dest b c,
    fun _ => s.reg_finishWithFlag_of_ne b c, s.finishWithFlag_eq x b c⟩

/-- The carry shows in the sum: it is below its first operand (42_alu.md section 2). -/
theorem toNat_add_lt_iff (a b : Byte) : (a + b).toNat < a.toNat ↔ 255 < a.toNat + b.toNat := by bv_omega

theorem flag_eq_one_iff (p : Prop) [Decidable p] : (if p then 1 else 0 : Byte) = 1 ↔ p := by
  split <;> simp_all

/-- Settles O38: the flag is the carry, and the carry is where the sum is below its first operand. -/
theorem addSetsTheCarry : Obligations.AddSetsTheCarry := by
  intro x y s
  obtain ⟨t, ht, hf, hx, hframe⟩ := exec_finishes_with_flag (exec_addVxVy x y s)
  simp only [carry, decide_eq_true_eq] at hf
  refine ⟨t, ht, hf, fun h => ?_, hframe⟩
  rw [hf, hx h, flag_eq_one_iff, toNat_add_lt_iff]
  exact ⟨BitVec.toNat_add _ _, Iff.rfl⟩

/-- Settles O39: both are a difference modulo 256 with the comparison of its operands as the flag. -/
theorem subtractionsSetNoBorrow : Obligations.SubtractionsSetNoBorrow := by
  have hsub : ∀ a b : Byte, (a - b).toNat = (a.toNat + 256 - b.toNat) % 256 := fun a b => by bv_omega
  intro x y s
  constructor
  · obtain ⟨t, ht, hf, hx, hframe⟩ := exec_finishes_with_flag (exec_sub x y s)
    simp only [noBorrow, decide_eq_true_eq] at hf
    exact ⟨t, ht, hf, fun h => by rw [hx h, hsub], hframe⟩
  · obtain ⟨t, ht, hf, hx, hframe⟩ := exec_finishes_with_flag (exec_subn x y s)
    simp only [noBorrow, decide_eq_true_eq] at hf
    exact ⟨t, ht, hf, fun h => by rw [hx h, hsub], hframe⟩

theorem toNat_bitOutRight (b : Byte) : (if bitOutRight b then 1 else 0 : Byte).toNat = b.toNat % 2 := by
  rw [bitOutRight, BitVec.getLsbD, Nat.testBit_zero]
  split <;> simp_all

theorem toNat_bitOutLeft (b : Byte) : (if bitOutLeft b then 1 else 0 : Byte).toNat = b.toNat / 128 := by
  have := b.isLt
  rw [bitOutLeft, BitVec.getLsbD, Nat.testBit_eq_decide_div_mod_eq]
  split <;> simp_all <;> omega

/-- Settles O40: half and twice Vy, with the lowest and the highest bit of Vy as the flag. -/
theorem shiftsReadVy : Obligations.ShiftsReadVy := by
  intro x y s
  constructor
  · obtain ⟨t, ht, hf, hx, hframe⟩ := exec_finishes_with_flag (exec_shr x y s)
    refine ⟨t, ht, by rw [hf, toNat_bitOutRight], fun h => ?_, hframe⟩
    rw [hx h, BitVec.toNat_ushiftRight, Nat.shiftRight_eq_div_pow, Nat.pow_one]
  · obtain ⟨t, ht, hf, hx, hframe⟩ := exec_finishes_with_flag (exec_shl x y s)
    refine ⟨t, ht, by rw [hf, toNat_bitOutLeft], fun h => ?_, hframe⟩
    rw [hx h, BitVec.toNat_shiftLeft, Nat.shiftLeft_eq, Nat.pow_one, Nat.mul_comm]

end Sys2Proof.Machine
end

section
/-! The statements of 43_index_memory.md about ADD I, Vx (R142) and about what a store and a load of the same block
do together (R147). -/

namespace Sys2Proof.Machine

@[simp] theorem exec_addIVx (x : Reg) (s : State) :
    exec (.addIVx x) s = .next (s.setI (s.i + zextByte (s.reg x))).advance := rfl

@[simp] theorem zextByte_toNat (b : Byte) : (zextByte b).toNat = b.toNat := by
  rw [zextByte, BitVec.toNat_setWidth, Nat.mod_eq_of_lt (Nat.lt_trans b.isLt (by decide))]

/-- Settles O42: the sum of two words is the sum of their values modulo 65536. -/
theorem addIndexWritesNoFlag : Obligations.AddIndexWritesNoFlag := by
  intro x s
  refine ⟨_, exec_addIVx x s, ?_, rfl⟩
  rw [State.advance_i, State.setI_i, BitVec.toNat_add, zextByte_toNat]

/-- Settles O47: byte k of the block read back is byte k of the block stored, which is Vk. -/
theorem loadBringsBackWhatWasStored : Obligations.LoadBringsBackWhatWasStored := by
  intro x s h
  refine ⟨_, exec_ldMemVx_inside x h, fun u hmem hi => ?_⟩
  rw [← hi] at h
  refine ⟨_, exec_ldVxMem_inside x h, fun k hk => ?_⟩
  have hlen := s.length_regsUpTo x
  rw [State.reg_advance, State.reg_setI, State.reg_setRegsFrom0, List.length_map, List.length_range',
    if_pos (by omega), getD_map_read_range' _ _ (by omega), hmem, hi]
  exact (Memory.read_load_of_lt s.mem s.i.toNat (by omega)).trans (s.getD_regsUpTo x k hk)

end Sys2Proof.Machine
end

section
/-! The statements of 45_keypad_timer_random.md about the inputs (R181 to R183, R187). -/

namespace Sys2Proof.Machine

@[simp] theorem exec_rnd (x : Reg) (nn : Byte) (s : State) :
    exec (.rnd x nn) s = .next (s.drawRandom.2.setReg x (s.drawRandom.1 &&& nn)).advance := rfl

@[simp] theorem exec_ldVxK (x : Reg) (s : State) :
    exec (.ldVxK x) s = .next (s.askFresh.2.takeKey x s.askFresh.1) := rfl

section
variable (x : Reg) {s : State}

theorem exec_skp_of_le (h : (s.reg x).toNat ≤ 15) :
    exec (.skp x) s = .next ((s.askHeld ((s.reg x).setWidth 4)).2.skipIf
      (s.askHeld ((s.reg x).setWidth 4)).1) := by
  simp only [exec, execSkp, keyOperand_ok h]

theorem exec_skp_of_gt (h : 15 < (s.reg x).toNat) :
    exec (.skp x) s = .fault (.keyOutOfRange (s.reg x)) := by
  simp only [exec, execSkp, keyOperand_error h, raise]

theorem exec_sknp_of_le (h : (s.reg x).toNat ≤ 15) :
    exec (.sknp x) s = .next ((s.askHeld ((s.reg x).setWidth 4)).2.skipIf
      (!(s.askHeld ((s.reg x).setWidth 4)).1)) := by
  simp only [exec, execSknp, keyOperand_ok h]

theorem exec_sknp_of_gt (h : 15 < (s.reg x).toNat) :
    exec (.sknp x) s = .fault (.keyOutOfRange (s.reg x)) := by
  simp only [exec, execSknp, keyOperand_error h, raise]

end

theorem State.skipIf_not (c : Bool) (s : State) :
    s.skipIf (!c) = { s with pc := s.pc + if c then 2 else 4 } := by
  cases c <;> rfl

/-- Settles O51: a bit of the result that nn has clear is clear, since the result is masked with nn. -/
theorem randomByteIsMasked : Obligations.RandomByteIsMasked := by
  intro x nn s
  have hx := s.drawRandom.2.reg_setReg_self x (s.drawRandom.1 &&& nn)
  refine ⟨_, exec_rnd x nn s, hx, ?_, fun r => s.drawRandom.2.reg_setReg_of_ne _, rfl⟩
  rw [State.reg_advance, hx, BitVec.and_assoc, BitVec.and_not_self]
  exact BitVec.and_zero

/-- Settles O52, by the two outcomes of the key's range check; the key that is asked about is the one in Vx. -/
theorem skipsOnAHeldKey : Obligations.SkipsOnAHeldKey := by
  intro x s
  refine ⟨fun h => ⟨exec_skp_of_gt x h, exec_sknp_of_gt x h⟩, fun k hk => ?_⟩
  have hle : (s.reg x).toNat ≤ 15 := by omega
  obtain rfl : (s.reg x).setWidth 4 = k :=
    BitVec.eq_of_toNat_eq (by rw [BitVec.toNat_setWidth, ← hk, Nat.mod_eq_of_lt k.isLt])
  rw [exec_skp_of_le x hle, exec_sknp_of_le x hle]
  exact ⟨rfl, congrArg _ (State.skipIf_not _ _)⟩

/-- Settles O53, by the two answers that the keypad can give. -/
theorem keyWaitRepeatsOrTakesTheKey : Obligations.KeyWaitRepeatsOrTakesTheKey := by
  intro x s
  refine ⟨_, exec_ldVxK x s, ?_⟩
  rw [show s.askFresh.1 = Config.keyFresh s.freshAsked from rfl]
  cases Config.keyFresh s.freshAsked with
  | none => rfl
  | some k =>
    refine ⟨?_, fun r => s.askFresh.2.reg_setReg_of_ne _, rfl⟩
    rw [State.takeKey_some, State.reg_advance, State.reg_setReg_self, BitVec.toNat_setWidth,
      Nat.mod_eq_of_lt (Nat.lt_trans k.isLt (by decide))]

end Sys2Proof.Machine
end

section
/-! The statements of 44_display.md about DRW (R162 to R171). The picture that a DRW leaves is the one before with
the pixels of `spriteBit` inverted (`pixel_blitRows`); the rest is that these are the pixels of `DrawInverts`. -/

namespace Sys2Proof.Machine

/-- A block that was read lies in the address space, unless it is empty, and is the bytes of its addresses. -/
theorem readBytes_eq_ok_iff {m : Memory} {a n : Nat} {bs : List Byte} :
    readBytes m a n = .ok bs ↔
      (0 < n → a + n ≤ memSize) ∧ (List.range' a n).map (Memory.read m) = bs := by
  rcases Nat.eq_zero_or_pos n with rfl | hn
  · simp [readBytes]
  rcases Nat.lt_or_ge memSize (a + n) with hlt | hle
  · simp [readBytes_error m hn hlt, hn, Nat.not_le.2 hlt]
  · simp [readBytes_ok m hle, hle]

/-- The `n` bytes of a sprite, from I on. -/
def spriteRows (s : State) (n : Nibble) : List Byte := (List.range' s.i.toNat n.toNat).map (Memory.read s.mem)

/-- The state that DRW Vx, Vy, n leaves where its bytes are in range: the sprite blitted, the flag, PC + 2. -/
def State.drawn (x y : Reg) (n : Nibble) (s : State) : State :=
  let d := blitRows (startColumn (s.reg x)) (startRow (s.reg y)) (spriteRows s n) ⟨s.fb, false⟩
  ((s.setFb d.fb).setFlag d.collision).advance

section
variable {x y : Reg} {n : Nibble} {s : State}

/-- DRW goes on where its bytes, if there are any, are in range. -/
theorem exec_drw_next_iff {t : State} :
    exec (.drw x y n) s = .next t ↔ (0 < n.toNat → s.i.toNat + n.toNat ≤ memSize) ∧ t = s.drawn x y n := by
  constructor
  · intro h
    obtain ⟨rows, hrows, rfl⟩ := exec_drw_next h
    obtain ⟨hin, rfl⟩ := readBytes_eq_ok_iff.1 hrows
    exact ⟨hin, rfl⟩
  · rintro ⟨hin, rfl⟩
    simp only [exec, execDrw, effectiveAddr_zero, readBytes_eq_ok_iff.2 ⟨hin, rfl⟩]
    rfl

theorem exec_drw_outside (hn : 0 < n.toNat) (h : memSize < s.i.toNat + n.toNat) :
    exec (.drw x y n) s = .fault (.memoryOutOfRange (max s.i.toNat memSize)) := by
  simp only [exec, execDrw, effectiveAddr_zero, readBytes_error s.mem hn h, raise]

theorem startColumn_lt (b : Byte) : startColumn b < 64 := Nat.mod_lt _ (by decide)

/-- The pixels that a DRW inverts are those that its sprite covers with a set bit. -/
theorem spriteBit_iff_drawInverts {c : Fin 64} {r : Fin 32} :
    spriteBit (startColumn (s.reg x)) (startRow (s.reg y)) (spriteRows s n) c r = true ↔
      DrawInverts s x y n c r := by
  have hx : (s.reg x).toNat % 64 < 64 := Nat.mod_lt _ (by decide)
  simp only [spriteBit, rowBit, Bool.and_eq_true, decide_eq_true_eq]
  simp only [startColumn, startRow]
  constructor
  · rintro ⟨hy, hj, hbit⟩
    have hk : r.val - (s.reg y).toNat % 32 < n.toNat := by
      by_contra hk
      rw [spriteRows, List.getD_eq_default _ _ (by simpa using hk)] at hbit
      simp at hbit
    rw [spriteRows, getD_map_read_range' _ _ hk] at hbit
    exact ⟨_, hk, _, hj, by omega, by omega, hbit⟩
  · rintro ⟨k, hk, j, hj, hc, hr, hbit⟩
    have hcol : (c.val + 64 - (s.reg x).toNat % 64) % 64 = j := by omega
    rw [hcol, hr, Nat.add_sub_cancel_left, spriteRows, getD_map_read_range' _ _ hk]
    exact ⟨Nat.le_add_right _ _, hj, hbit⟩

variable (x y n s)

theorem pixel_drawn (c : Fin 64) (r : Fin 32) :
    pixel (s.drawn x y n).fb c r = (pixel s.fb c r ^^
      spriteBit (startColumn (s.reg x)) (startRow (s.reg y)) (spriteRows s n) c r) :=
  pixel_blitRows (startColumn_lt _) _ _ _ c r

/-- The flag that DRW leaves: whether a lit pixel was inverted. -/
theorem flag_drawn : ∃ c : Bool, (s.drawn x y n).reg 0xF = (if c then 1 else 0) ∧
    (c = true ↔ ∃ c r, pixel s.fb c r = true ∧ DrawInverts s x y n c r) := by
  refine ⟨_, State.reg_setReg_self _ _ _, ?_⟩
  rw [collision_blitRows (startColumn_lt _)]
  simp only [Bool.false_eq_true, false_or, spriteBit_iff_drawInverts]

end

/-- Settles O49: the pixels are those of `spriteBit_iff_drawInverts`, and the collision is one lit among them. -/
theorem drawInvertsTheSpritePixels : Obligations.DrawInvertsTheSpritePixels := by
  intro x y n s hin
  have hin : 0 < n.toNat → s.i.toNat + n.toNat ≤ memSize := fun hn => by
    have := hin (n.toNat - 1) (by omega)
    simp only [effectiveAddr] at this
    simp only [memSize]
    omega
  obtain ⟨c, hflag, hc⟩ := flag_drawn x y n s
  refine ⟨_, exec_drw_next_iff.2 ⟨hin, rfl⟩, fun c r h => ?_, fun c r h => ?_, fun h => ?_, fun h => ?_,
    fun r => State.reg_setReg_of_ne _ _, rfl⟩
  · rw [pixel_drawn, spriteBit_iff_drawInverts.2 h, Bool.xor_true]
  · rw [pixel_drawn, Bool.eq_false_iff.2 (mt spriteBit_iff_drawInverts.1 h), Bool.xor_false]
  · rw [hflag, if_pos (hc.2 h)]
  · rw [hflag, if_neg (mt hc.1 h)]

/-- Settles O50: both draws invert the pixels of the same `spriteBit`, so each pixel is inverted twice or never. -/
theorem drawingTwiceRestoresThePicture : Obligations.DrawingTwiceRestoresThePicture := by
  intro x y x' y' n s t u h hfb hmem hi hx hy
  obtain ⟨hin, rfl⟩ := exec_drw_next_iff.1 h
  refine ⟨_, exec_drw_next_iff.2 ⟨by rwa [hi], rfl⟩, framebuffer_ext fun c r => ?_⟩
  have hrows : spriteRows u n = spriteRows s n := by rw [spriteRows, hmem, hi, spriteRows]
  rw [pixel_drawn, hfb, pixel_drawn, hx, hy, hrows, Bool.xor_assoc, Bool.xor_self, Bool.xor_false]

end Sys2Proof.Machine
end

section
/-! What an instruction that goes on can change, said once for all 34: each part of the state that only some
instructions write is as before after every other one, and STATUS, CYC and the record of frames are after all. -/

namespace Sys2Proof.Machine

/-- The instructions that write I (10_state.md R14). -/
def writesI : Instr → Bool
  | .ldINnn _ | .addIVx _ | .ldFVx _ | .ldMemVx _ | .ldVxMem _ => true
  | _ => false

/-- The instructions that write the call stack and its pointer (R15). -/
def writesStack : Instr → Bool
  | .ret | .call _ => true
  | _ => false

/-- The instructions that write the framebuffer (R17). -/
def writesFb : Instr → Bool
  | .cls | .drw _ _ _ => true
  | _ => false

/-- The instructions that write memory (20_memory.md R55). -/
def writesMem : Instr → Bool
  | .ldBVx _ | .ldMemVx _ => true
  | _ => false

theorem writesI_iff {i : Instr} : writesI i = true ↔ (∃ nnn, i = .ldINnn nnn) ∨
    ∃ x, i = .addIVx x ∨ i = .ldFVx x ∨ i = .ldMemVx x ∨ i = .ldVxMem x := by
  cases i <;> simp [writesI]

theorem writesStack_iff {i : Instr} : writesStack i = true ↔ i = .ret ∨ ∃ nnn, i = .call nnn := by
  cases i <;> simp [writesStack]

theorem writesFb_iff {i : Instr} : writesFb i = true ↔ i = .cls ∨ ∃ x y n, i = .drw x y n := by
  cases i <;> simp [writesFb]

theorem writesMem_iff {i : Instr} : writesMem i = true ↔ ∃ x, i = .ldBVx x ∨ i = .ldMemVx x := by
  cases i <;> simp [writesMem]

/-- The state `t` with every part that `i` does not write put back to what it is in `s`, and with each counter of
inputs at what `i` asks for from `s`. V, PC, DT and ST are left alone: they have lemmas of their own. -/
def putBack (i : Instr) (s t : State) : State :=
  { t with
    i := if writesI i then t.i else s.i
    stk := if writesStack i then t.stk else s.stk
    sp := if writesStack i then t.sp else s.sp
    fb := if writesFb i then t.fb else s.fb
    mem := if writesMem i then t.mem else s.mem
    status := s.status
    cyc := s.cyc
    heldAsked := s.heldAsked + (inputsAsked i).1
    freshAsked := s.freshAsked + (inputsAsked i).2.1
    randomDrawn := s.randomDrawn + (inputsAsked i).2.2
    emitted := s.emitted }

/-- An instruction writes no part of the state that the tables do not let it write. -/
theorem exec_eq_putBack {i : Instr} {s t : State} (h : exec i s = .next t) : t = putBack i s t := by
  cases i with
  | ret => obtain ⟨_, rfl⟩ := eq_of_exec_ret_next h; rfl
  | call nnn => obtain ⟨_, rfl⟩ := eq_of_exec_call_next h; rfl
  | drw x y n => obtain ⟨_, _, rfl⟩ := exec_drw_next h; rfl
  | skp x => obtain ⟨_, _, rfl⟩ := exec_skp_next h; rfl
  | sknp x => obtain ⟨_, _, rfl⟩ := exec_sknp_next h; rfl
  | ldFVx x => obtain ⟨_, _, rfl⟩ := exec_ldFVx_next h; rfl
  | ldBVx x => obtain ⟨_, _, rfl⟩ := exec_ldBVx_next h; rfl
  | ldMemVx x => obtain ⟨_, _, rfl⟩ := exec_ldMemVx_next h; rfl
  | ldVxMem x => obtain ⟨_, _, rfl⟩ := exec_ldVxMem_next h; rfl
  | ldVxK x =>
    obtain rfl := Host.Outcome.next.inj h
    cases s.askFresh.1 <;> rfl
  | cls | jp | seVxNn | sneVxNn | seVxVy | ldVxNn | addVxNn | ldVxVy | or | and | xor | addVxVy | sub | shr
  | subn | shl | sneVxVy | ldINnn | jpV0Nnn | rnd | ldVxDt | ldDtVx | ldStVx | addIVx =>
    obtain rfl := Host.Outcome.next.inj h
    rfl

section
variable {i : Instr} {s t : State} (h : exec i s = .next t)
include h

theorem exec_keeps_i (hi : writesI i = false) : t.i = s.i := by
  rw [exec_eq_putBack h, putBack, hi]; rfl

theorem exec_keeps_stack (hi : writesStack i = false) : t.stk = s.stk ∧ t.sp = s.sp := by
  rw [exec_eq_putBack h, putBack, hi]; exact ⟨rfl, rfl⟩

theorem exec_keeps_fb (hi : writesFb i = false) : t.fb = s.fb := by
  rw [exec_eq_putBack h, putBack, hi]; rfl

theorem exec_keeps_mem (hi : writesMem i = false) : t.mem = s.mem := by
  rw [exec_eq_putBack h, putBack, hi]; rfl

theorem exec_keeps_status : t.status = s.status := by
  rw [exec_eq_putBack h]; rfl

theorem exec_keeps_cyc : t.cyc = s.cyc := by
  rw [exec_eq_putBack h]; rfl

theorem exec_keeps_emitted : t.emitted = s.emitted := by
  rw [exec_eq_putBack h]; rfl

end

/-- Settles O25: an instruction that goes on has counted what the table says (`exec_eq_putBack`), and a tick
counts nothing. -/
theorem inputsAreAskedOncePerExecution : Obligations.InputsAreAskedOncePerExecution := by
  refine ⟨fun i s t h => ?_, fun s => ⟨rfl, rfl, rfl⟩⟩
  rw [exec_eq_putBack h]; rfl

/-! ### Which instruction a step that changes something ran -/

/-- If no tick changes `f` and of the instructions only those that `writes` marks do, then a step that changes
`f` fetched and decoded one of these. -/
theorem step_ran_writer {α : Type} {f : State → α} {writes : Instr → Bool}
    (htick : ∀ s, f (frameTick s) = f s) (hcount : ∀ s, f s.countCycle = f s)
    (hexec : ∀ {i s t}, exec i s = .next t → writes i = false → f t = f s)
    {s t : State} (h : step s = .next t) (hne : f t ≠ f s) :
    ∃ w i, fetch s = .ok w ∧ decodeWord w = .ok i ∧ writes i = true := by
  obtain ⟨-, ⟨-, rfl⟩ | ⟨-, w, i, u, hw, hi, hu, rfl⟩⟩ := step_cases h
  · exact absurd (htick s) hne
  · refine ⟨w, i, hw, hi, (Bool.eq_false_or_eq_true _).resolve_right fun hwrites => hne ?_⟩
    rw [hcount, hexec hu hwrites]

/-- Settles O18: a byte that reads otherwise is in a memory list that changed, and `writesMem` marks the two
stores. -/
theorem onlyStoresChangeMemory : Obligations.OnlyStoresChangeMemory := by
  rintro s t h ⟨a, ha⟩
  obtain ⟨w, i, hw, hi, hwrites⟩ := step_ran_writer frameTick_mem State.countCycle_mem exec_keeps_mem h
    fun hmem => ha (by rw [hmem])
  obtain ⟨x, rfl | rfl⟩ := writesMem_iff.1 hwrites
  · exact ⟨w, x, hw, .inl hi⟩
  · exact ⟨w, x, hw, .inr hi⟩

/-- Settles O19: `writesFb` marks CLS and DRW. -/
theorem onlyClearAndDrawChangeTheFramebuffer : Obligations.OnlyClearAndDrawChangeTheFramebuffer := by
  intro s t h hne
  obtain ⟨w, i, hw, hi, hwrites⟩ := step_ran_writer frameTick_fb State.countCycle_fb exec_keeps_fb h hne
  obtain rfl | ⟨x, y, n, rfl⟩ := writesFb_iff.1 hwrites
  · exact ⟨w, hw, .inl hi⟩
  · exact ⟨w, hw, .inr ⟨x, y, n, hi⟩⟩

/-- Settles O20: `writesStack` marks CALL and RET, for the stack and its pointer together. -/
theorem onlyCallAndReturnTouchTheStack : Obligations.OnlyCallAndReturnTouchTheStack := by
  intro s t h hne
  obtain ⟨w, i, hw, hi, hwrites⟩ := step_ran_writer (f := fun s => (s.stk, s.sp)) (fun _ => rfl) (fun _ => rfl)
    (fun hu hwrites => Prod.ext_iff.2 (exec_keeps_stack hu hwrites)) h
    fun heq => not_and_or.2 hne (Prod.ext_iff.1 heq)
  obtain rfl | ⟨nnn, rfl⟩ := writesStack_iff.1 hwrites
  · exact ⟨w, hw, .inl hi⟩
  · exact ⟨w, hw, .inr ⟨nnn, hi⟩⟩

/-- Settles O21: `writesI` marks the five. -/
theorem onlyFiveInstructionsChangeI : Obligations.OnlyFiveInstructionsChangeI := by
  intro s t h hne
  obtain ⟨w, i, hw, hi, hwrites⟩ := step_ran_writer frameTick_i State.countCycle_i exec_keeps_i h hne
  exact ⟨w, i, hw, hi, writesI_iff.1 hwrites⟩

/-! ### The canonical memory list -/

theorem exec_keeps_memory_wf {i : Instr} {s t : State} (hs : s.mem.wf) (h : exec i s = .next t) : t.mem.wf := by
  cases hi : writesMem i with
  | false => rwa [exec_keeps_mem h hi]
  | true =>
    obtain ⟨x, rfl | rfl⟩ := writesMem_iff.1 hi
    · obtain ⟨m, hm, rfl⟩ := exec_ldBVx_next h
      exact writeBytes_wf hs hm
    · obtain ⟨m, hm, rfl⟩ := exec_ldMemVx_next h
      exact writeBytes_wf hs hm

/-- Settles O14: the two instructions that write memory do it with `writeBytes`, which keeps the form
(`writeBytes_wf`); all others, and the tick, leave the list as it is. -/
theorem stepKeepsMemoryCanonical : Obligations.StepKeepsMemoryCanonical := by
  intro s t hs h
  obtain ⟨-, ⟨-, rfl⟩ | ⟨-, w, i, u, -, -, hu, rfl⟩⟩ := step_cases h
  · exact hs
  · exact exec_keeps_memory_wf (t := u) hs hu

end Sys2Proof.Machine
end

section
/-! The rest of the statements about all instructions: where PC goes, which registers change, what an instruction
raises, and that ST is read by none. -/

namespace Sys2Proof.Machine

/-! ### PC (10_state.md R13, R25) -/

theorem skipIf_pc_cases (c : Bool) (s : State) : (s.skipIf c).pc = s.pc + 2 ∨ (s.skipIf c).pc = s.pc + 4 := by
  cases c
  · exact .inl rfl
  · exact .inr rfl

/-- Settles O24: the target of a jump, call or return and the two values of a skip are those of the table, and
every other instruction ends with the PC step. -/
theorem nextPcIsInTheTable : Obligations.NextPcIsInTheTable := by
  intro i s t h
  cases i with
  | ret =>
    obtain ⟨h0, rfl⟩ := eq_of_exec_ret_next h
    exact ⟨h0, rfl⟩
  | call nnn =>
    obtain ⟨_, rfl⟩ := eq_of_exec_call_next h
    exact zextAddr_toNat nnn
  | jp nnn =>
    obtain rfl := Host.Outcome.next.inj h
    exact zextAddr_toNat nnn
  | jpV0Nnn nnn =>
    obtain rfl := Host.Outcome.next.inj h
    exact offsetTarget_toNat nnn s
  | skp x => obtain ⟨_, _, rfl⟩ := exec_skp_next h; exact skipIf_pc_cases _ _
  | sknp x => obtain ⟨_, _, rfl⟩ := exec_sknp_next h; exact skipIf_pc_cases _ _
  | seVxNn | sneVxNn | seVxVy | sneVxVy =>
    obtain rfl := Host.Outcome.next.inj h
    exact skipIf_pc_cases _ _
  | ldVxK x =>
    obtain rfl := Host.Outcome.next.inj h
    cases s.askFresh.1
    · exact .inl rfl
    · exact .inr rfl
  | drw x y n => obtain ⟨_, _, rfl⟩ := exec_drw_next h; rfl
  | ldFVx x => obtain ⟨_, _, rfl⟩ := exec_ldFVx_next h; rfl
  | ldBVx x => obtain ⟨_, _, rfl⟩ := exec_ldBVx_next h; rfl
  | ldMemVx x => obtain ⟨_, _, rfl⟩ := exec_ldMemVx_next h; rfl
  | ldVxMem x => obtain ⟨_, _, rfl⟩ := exec_ldVxMem_next h; rfl
  | cls | ldVxNn | addVxNn | ldVxVy | or | and | xor | addVxVy | sub | shr | subn | shl | ldINnn | rnd | ldVxDt
  | ldDtVx | ldStVx | addIVx =>
    obtain rfl := Host.Outcome.next.inj h
    rfl

/-- Every live return address is 2 to 4096 (R25). -/
def ReturnsInRange (s : State) : Prop :=
  ∀ k : Fin 16, k.val < s.sp.val → 2 ≤ s.stk[k].toNat ∧ s.stk[k].toNat ≤ 4096

section
variable {i : Instr} {s : State} (hpc : s.pc.toNat < 4095) (hret : ReturnsInRange s)
include hpc hret

/-- From an address that can be fetched from, every value of the table is at most 0x10FE, the highest target
of JP V0, nnn. -/
theorem toNat_le_of_nextPc {p : Word} (h : nextPc s p i) : p.toNat ≤ 0x10FE := by
  have hskip : p = s.pc ∨ p = s.pc + 2 ∨ p = s.pc + 4 → p.toNat ≤ 0x10FE := by
    rintro (rfl | rfl | rfl) <;> bv_omega
  cases i with
  | ret =>
    obtain ⟨h0, rfl⟩ := h
    have := (hret ⟨s.sp.val - 1, by omega⟩ (Nat.sub_one_lt_of_lt h0)).2
    exact Nat.le_trans this (by decide)
  | jp nnn | call nnn =>
    have h : p.toNat = nnn.toNat := h
    omega
  | jpV0Nnn nnn =>
    have h : p.toNat = nnn.toNat + (s.reg 0).toNat := h
    omega
  | seVxNn | sneVxNn | seVxVy | sneVxVy | skp | sknp => exact hskip (.inr h)
  | ldVxK => exact hskip (h.imp_right .inl)
  | _ => exact hskip (.inr (.inl h))

theorem exec_keeps_returns {t : State} (h : exec i s = .next t) : ReturnsInRange t := by
  cases hi : writesStack i with
  | false =>
    obtain ⟨hstk, hsp⟩ := exec_keeps_stack h hi
    rwa [ReturnsInRange, hstk, hsp]
  | true =>
    obtain rfl | ⟨nnn, rfl⟩ := writesStack_iff.1 hi
    · obtain ⟨h0, rfl⟩ := eq_of_exec_ret_next h
      exact fun k hk => hret k (Nat.lt_of_lt_of_le hk (Nat.sub_le _ _))
    · obtain ⟨h16, rfl⟩ := eq_of_exec_call_next h
      intro k hk
      have hk : k.val < s.sp.val + 1 := hk
      have hslot : (s.stk.set s.sp.val (s.pc + 2))[k] = if s.sp.val = k then s.pc + 2 else s.stk[k] :=
        Vector.getElem_set h16 k.isLt
      simp only [State.jump_stk, hslot]
      split
      · constructor <;> bv_omega
      · exact hret k (by omega)

end

/-- Settles O15: a tick moves neither PC nor the stack; a cycle has fetched, so PC was below 4095, from where
the table of next PCs stays in range. -/
theorem stepKeepsPcInRange : Obligations.StepKeepsPcInRange := by
  rintro s t ⟨hle, hret⟩ h
  obtain ⟨-, ⟨-, rfl⟩ | ⟨-, w, i, u, hw, -, hu, rfl⟩⟩ := step_cases h
  · exact ⟨hle, hret⟩
  · have hpc := (fetch_eq_ok.1 hw).1
    exact ⟨toNat_le_of_nextPc hpc hret (nextPcIsInTheTable i s u hu), exec_keeps_returns (t := u) hpc hret hu⟩

/-! ### The general registers and the flag (10_state.md R10, R11) -/

/-- Settles O22, by the register that each instruction writes, if any, and the flag. -/
theorem registersChangeOnlyWhereTheTableSays : Obligations.RegistersChangeOnlyWhereTheTableSays := by
  intro i s t h r hr
  cases i with
  | ldVxNn x | addVxNn x | ldVxVy x | rnd x | ldVxDt x =>
    obtain rfl := Host.Outcome.next.inj h
    exact State.reg_setReg_of_ne _ _ (ne_of_beq_false hr)
  | ldVxK x =>
    obtain rfl := Host.Outcome.next.inj h
    cases s.askFresh.1
    · rfl
    · exact State.reg_setReg_of_ne _ _ (ne_of_beq_false hr)
  | or x | and x | xor x | addVxVy x | sub x | shr x | subn x | shl x =>
    obtain rfl := Host.Outcome.next.inj h
    obtain ⟨hx, hf⟩ := Bool.or_eq_false_iff.1 hr
    exact State.reg_finishWithFlag_of_ne _ _ _ (ne_of_beq_false hx) (ne_of_beq_false hf)
  | drw x y n =>
    obtain ⟨_, _, rfl⟩ := exec_drw_next h
    exact State.reg_setReg_of_ne _ _ (ne_of_beq_false hr)
  | ldVxMem x =>
    obtain ⟨bs, hbs, rfl⟩ := exec_ldVxMem_next h
    have hlt : x.toNat < r.toNat := Nat.not_le.1 (of_decide_eq_false hr)
    obtain ⟨-, rfl⟩ := readBytes_eq_ok_iff.1 hbs
    rw [State.reg_advance, State.reg_setI, State.reg_setRegsFrom0, List.length_map, List.length_range',
      if_neg (by omega)]
  | ret => obtain ⟨_, rfl⟩ := eq_of_exec_ret_next h; rfl
  | call nnn => obtain ⟨_, rfl⟩ := eq_of_exec_call_next h; rfl
  | skp x => obtain ⟨_, _, rfl⟩ := exec_skp_next h; rfl
  | sknp x => obtain ⟨_, _, rfl⟩ := exec_sknp_next h; rfl
  | ldFVx x => obtain ⟨_, _, rfl⟩ := exec_ldFVx_next h; rfl
  | ldBVx x => obtain ⟨_, _, rfl⟩ := exec_ldBVx_next h; rfl
  | ldMemVx x => obtain ⟨_, _, rfl⟩ := exec_ldMemVx_next h; rfl
  | cls | jp | seVxNn | sneVxNn | seVxVy | sneVxVy | ldINnn | jpV0Nnn | ldDtVx | ldStVx | addIVx =>
    obtain rfl := Host.Outcome.next.inj h
    rfl

/-- The nine flag instructions end with a flag in VF. -/
theorem exec_leaves_flag {i : Instr} {s t : State} (hi : writesFlag i = true) (h : exec i s = .next t) :
    ∃ c : Bool, t.reg 0xF = if c then 1 else 0 := by
  cases i with
  | or | and | xor | addVxVy | sub | shr | subn | shl =>
    obtain rfl := Host.Outcome.next.inj h
    exact ⟨_, State.reg_finishWithFlag_vf _ _ _ _⟩
  | drw x y n =>
    obtain ⟨_, _, rfl⟩ := exec_drw_next h
    exact ⟨_, State.reg_setReg_self _ _ _⟩
  | _ => cases hi

/-- Settles O23, by the two values of the flag (`exec_leaves_flag`). -/
theorem flagIsZeroOrOne : Obligations.FlagIsZeroOrOne := by
  intro i s t hi h
  obtain ⟨c, hc⟩ := exec_leaves_flag hi h
  cases c
  · exact .inl hc
  · exact .inr hc

/-! ### Faults (60_exceptions.md R201) -/

/-- A block access faults, if at all, at the first of its addresses out of range. -/
theorem firstOutOfRange_iff {s : State} {n : Nat} {f : Fault} :
    firstOutOfRange s n f ↔
      (0 < n ∧ memSize < s.i.toNat + n) ∧ f = .memoryOutOfRange (max s.i.toNat memSize) := by
  constructor
  · rintro ⟨k, hk, hout, hin, rfl⟩
    have hmem : memSize < s.i.toNat + n := Nat.lt_of_le_of_lt hout (by omega)
    have hmax : s.i.toNat + k = max s.i.toNat memSize := by
      simp only [memSize]
      rcases Nat.eq_zero_or_pos k with rfl | h0
      · omega
      · have := hin (k - 1) (by omega)
        omega
    exact ⟨⟨by omega, hmem⟩, by rw [hmax]⟩
  · rintro ⟨⟨hn, h⟩, rfl⟩
    exact firstOutOfRange_max hn h

/-- An instruction goes on and the table raises nothing, or it faults and the table raises exactly this fault. -/
def ObeysFaultTable (i : Instr) (s : State) : Prop :=
  (∃ t, exec i s = .next t ∧ ∀ f, ¬ raises s f i) ∨ ∃ f, exec i s = .fault f ∧ ∀ g, raises s g i ↔ g = f

section
variable {i : Instr} {s : State}

theorem obeysFaultTable_of_next {t : State} (h : exec i s = .next t) (hraises : ∀ f, ¬ raises s f i) :
    ObeysFaultTable i s := .inl ⟨t, h, hraises⟩

/-- An instruction that raises `f` where a check `p` fails it and goes on elsewhere. -/
theorem obeysFaultTable_of_check {p : Prop} {f : Fault} (hraises : ∀ g, raises s g i ↔ p ∧ g = f)
    (hfault : p → exec i s = .fault f) (hnext : ¬ p → ∃ t, exec i s = .next t) : ObeysFaultTable i s := by
  by_cases hp : p
  · exact .inr ⟨f, hfault hp, fun g => (hraises g).trans (and_iff_right hp)⟩
  · obtain ⟨t, ht⟩ := hnext hp
    exact .inl ⟨t, ht, fun g hg => hp ((hraises g).1 hg).1⟩

end

theorem exec_obeysFaultTable (i : Instr) (s : State) : ObeysFaultTable i s := by
  cases i with
  | ret =>
    exact obeysFaultTable_of_check (fun _ => Iff.rfl) exec_ret_of_empty
      fun h => ⟨_, exec_ret_of_pos (Nat.pos_of_ne_zero h)⟩
  | call nnn =>
    exact obeysFaultTable_of_check (fun _ => Iff.rfl) (exec_call_of_full nnn)
      fun h => ⟨_, exec_call_of_lt nnn (by omega)⟩
  | ldFVx x =>
    exact obeysFaultTable_of_check (fun _ => Iff.rfl) (exec_ldFVx_of_gt x)
      fun h => ⟨_, exec_ldFVx_of_le x (Nat.not_lt.1 h)⟩
  | skp x =>
    exact obeysFaultTable_of_check (fun _ => Iff.rfl) (exec_skp_of_gt x)
      fun h => ⟨_, exec_skp_of_le x (Nat.not_lt.1 h)⟩
  | sknp x =>
    exact obeysFaultTable_of_check (fun _ => Iff.rfl) (exec_sknp_of_gt x)
      fun h => ⟨_, exec_sknp_of_le x (Nat.not_lt.1 h)⟩
  | drw x y n =>
    exact obeysFaultTable_of_check (fun _ => firstOutOfRange_iff) (fun h => exec_drw_outside h.1 h.2)
      fun h => ⟨_, exec_drw_next_iff.2 ⟨by omega, rfl⟩⟩
  | ldBVx x =>
    exact obeysFaultTable_of_check (fun _ => firstOutOfRange_iff) (fun h => exec_ldBVx_outside x h.2)
      fun h => ⟨_, exec_ldBVx_inside x (by omega)⟩
  | ldMemVx x =>
    exact obeysFaultTable_of_check (fun _ => firstOutOfRange_iff) (fun h => exec_ldMemVx_outside x h.2)
      fun h => ⟨_, exec_ldMemVx_inside x (by omega)⟩
  | ldVxMem x =>
    exact obeysFaultTable_of_check (fun _ => firstOutOfRange_iff) (fun h => exec_ldVxMem_outside x h.2)
      fun h => ⟨_, exec_ldVxMem_inside x (by omega)⟩
  | cls | jp | seVxNn | sneVxNn | seVxVy | ldVxNn | addVxNn | ldVxVy | or | and | xor | addVxVy | sub | shr
  | subn | shl | sneVxVy | ldINnn | jpV0Nnn | rnd | ldVxDt | ldVxK | ldDtVx | ldStVx | addIVx =>
    exact obeysFaultTable_of_next rfl fun _ => id

/-- Settles O27, by the two ways in which `exec_obeysFaultTable` can hold. -/
theorem faultsAreExactlyTheTable : Obligations.FaultsAreExactlyTheTable := by
  intro i s f
  rcases exec_obeysFaultTable i s with ⟨t, ht, hno⟩ | ⟨g, hg, hiff⟩
  · rw [ht]
    exact iff_of_false nofun (hno f)
  · rw [hg, hiff, Host.Outcome.fault.injEq, eq_comm]

/-! ### The tone timer (60_exceptions.md R214) -/

/-- An outcome with the state that it goes on to changed. -/
def mapNext (f : State → State) : Host.Outcome State Fault Refusal → Host.Outcome State Fault Refusal
  | .next t => .next (f t)
  | .fault g => .fault g
  | .refused r => .refused r

/-- What becomes of the end state `t` of an instruction that found `b` in ST: `b` is still there unless the
instruction is LD ST, Vx, which overwrote it. -/
def withStFrom (i : Instr) (b : Byte) (t : State) : State :=
  match i with
  | .ldStVx _ => t
  | _ => t.setSt b

theorem withStFrom_eq (i : Instr) (b : Byte) (t : State) :
    withStFrom i b t = { t with st := (withStFrom i b t).st } := by
  unfold withStFrom
  split <;> rfl

/-- No instruction looks at ST: with another value there its outcome is the same but for ST itself. -/
theorem exec_setSt (i : Instr) (b : Byte) (s : State) :
    exec i (s.setSt b) = mapNext (withStFrom i b) (exec i s) := by
  cases i with
  | ret =>
    rcases Nat.eq_zero_or_pos s.sp.val with h | h
    · rw [exec_ret_of_empty h, exec_ret_of_empty (s := s.setSt b) h]; rfl
    · rw [exec_ret_of_pos h, exec_ret_of_pos (s := s.setSt b) h]; rfl
  | call nnn =>
    rcases Nat.lt_or_ge s.sp.val 16 with h | h
    · rw [exec_call_of_lt nnn h, exec_call_of_lt (s := s.setSt b) nnn h]; rfl
    · have h : s.sp.val = 16 := by omega
      rw [exec_call_of_full nnn h, exec_call_of_full (s := s.setSt b) nnn h]; rfl
  | drw x y n =>
    simp only [exec, execDrw, effectiveAddr_zero, State.setSt_i, State.setSt_mem]
    cases readBytes s.mem s.i.toNat n.toNat <;> rfl
  | skp x | sknp x =>
    simp only [exec, execSkp, execSknp, State.reg_setSt]
    cases keyOperand (s.reg x) <;> rfl
  | ldFVx x =>
    simp only [exec, execLdFVx, State.reg_setSt]
    cases digitOperand (s.reg x) <;> rfl
  | ldBVx x =>
    simp only [exec, execLdBVx, effectiveAddr_zero, State.setSt_i, State.setSt_mem, State.reg_setSt]
    cases writeBytes s.mem s.i.toNat (decimalDigits (s.reg x)) <;> rfl
  | ldMemVx x =>
    have hregs : (s.setSt b).regsUpTo x = s.regsUpTo x := rfl
    simp only [exec, execLdMemVx, effectiveAddr_zero, State.setSt_i, State.setSt_mem, hregs]
    cases writeBytes s.mem s.i.toNat (s.regsUpTo x) <;> rfl
  | ldVxMem x =>
    simp only [exec, execLdVxMem, effectiveAddr_zero, State.setSt_i, State.setSt_mem]
    cases readBytes s.mem s.i.toNat (x.toNat + 1) <;> rfl
  | ldVxK x =>
    have hask : (s.setSt b).askFresh = (s.askFresh.1, s.askFresh.2.setSt b) := rfl
    rw [exec_ldVxK, exec_ldVxK, hask]
    cases s.askFresh.1 <;> rfl
  | cls | jp | seVxNn | sneVxNn | seVxVy | ldVxNn | addVxNn | ldVxVy | or | and | xor | addVxVy | sub | shr
  | subn | shl | sneVxVy | ldINnn | jpV0Nnn | rnd | ldVxDt | ldDtVx | ldStVx | addIVx => rfl

/-- Settles O26, by the outcome that `exec_setSt` gives of an instruction under another ST. -/
theorem toneTimerIsNeverRead : Obligations.ToneTimerIsNeverRead := by
  intro i s b
  have hset : exec i { s with st := b } = mapNext (withStFrom i b) (exec i s) := exec_setSt i b s
  refine ⟨fun t h => ⟨_, ?_, withStFrom_eq i b t⟩, fun f h => ?_⟩
  · rw [hset, h]; rfl
  · rw [hset, h]; rfl

end Sys2Proof.Machine
end

section
/-! The statements about the step, the frame and the end of a run (40_execution_cycle.md, 60_exceptions.md). -/

namespace Sys2Proof.Machine

/-! ### A step inside a frame -/

section
variable {s t : State} {w : Word} {i : Instr} {f : Fault} (hs : s.status = .running) (hc : s.cyc < ipf)
include hs hc

theorem step_of_fetch_error (h : fetch s = .error f) : step s = .fault f := by
  rw [step_eq_cycle hs hc, cycle, h]; rfl

theorem step_of_decode_error {r : Rejection} (hw : fetch s = .ok w) (h : decodeWord w = .error r) :
    step s = .fault (.unknownInstruction w) := by
  rw [step_eq_cycle hs hc, cycle, hw]
  simp only [h, raise]

theorem step_of_exec_next (hw : fetch s = .ok w) (hi : decodeWord w = .ok i) (h : exec i s = .next t) :
    step s = .next t.countCycle := by
  rw [step_eq_cycle hs hc, cycle_eq hw hi, h]; rfl

theorem step_of_exec_fault (hw : fetch s = .ok w) (hi : decodeWord w = .ok i) (h : exec i s = .fault f) :
    step s = .fault f := by
  rw [step_eq_cycle hs hc, cycle_eq hw hi, h]; rfl

end

/-- Settles O7: a running machine inside its frame does a cycle, whose three stages come one after the other. -/
theorem stepRunsTheDecodedInstruction : Obligations.StepRunsTheDecodedInstruction := by
  intro s hs hc
  exact ⟨fun f => step_of_fetch_error hs hc, fun w r => step_of_decode_error hs hc,
    fun w i hw hi => ⟨fun t => step_of_exec_next hs hc hw hi, fun f => step_of_exec_fault hs hc hw hi⟩⟩

/-- Settles O8: the placed state is running at the start of a frame, and what it fetches and decodes is the placed
instruction. -/
theorem placedInstructionIsTheNextToRun : Obligations.PlacedInstructionIsTheNextToRun := by
  intro s i p
  have hw : fetch p = .ok (encodeWord i) :=
    (fetch_placeInstruction _ s).trans (congrArg _ (tableWord_toNat _))
  have hi := decodeWord_encodeWord i
  exact ⟨fun t => step_of_exec_next rfl ipf_pos hw hi, fun f => step_of_exec_fault rfl ipf_pos hw hi⟩

/-- Settles O9: the schedule looks at STATUS first. -/
theorem faultedMachineDoesNothing : Obligations.FaultedMachineDoesNothing := by
  intro s f
  rfl

/-- Settles O28: what a cycle can raise is a fetch fault, an unknown word or a fault of its instruction, and no
instruction is refused (`exec_obeysFaultTable`). -/
theorem everyStepEndsInNextOrFault : Obligations.EveryStepEndsInNextOrFault := by
  intro s
  cases hs : s.status with
  | faulted f => exact .inr ⟨f, by simp only [step, schedule, hs, raise]⟩
  | running =>
    rcases Nat.lt_or_ge s.cyc ipf with hc | hc
    · cases hw : fetch s with
      | error f => exact .inr ⟨f, step_of_fetch_error hs hc hw⟩
      | ok w =>
        cases hi : decodeWord w with
        | error r => exact .inr ⟨_, step_of_decode_error hs hc hw hi⟩
        | ok i =>
          rcases exec_obeysFaultTable i s with ⟨t, ht, -⟩ | ⟨f, hf, -⟩
          · exact .inl ⟨_, step_of_exec_next hs hc hw hi ht⟩
          · exact .inr ⟨f, step_of_exec_fault hs hc hw hi hf⟩
    · exact .inl ⟨_, step_eq_tick hs hc⟩

/-! ### The frame tick and the length of a frame -/

/-- Settles O10: a tick takes the predecessor of each timer. -/
theorem frameTickChangesOnlyTimersAndOutput : Obligations.FrameTickChangesOnlyTimersAndOutput := by
  intro s hs hc
  exact ⟨frameTick s, _, step_eq_tick hs hc, toNat_countDown s.dt, toNat_countDown s.st, rfl, rfl, rfl⟩

/-- Settles O12: ST is 0 after the tick where it was at most 1 before. -/
theorem toneFollowsTheCountdown : Obligations.ToneFollowsTheCountdown := by
  intro s
  refine ⟨_, rfl, ?_⟩
  have hzero : ∀ b : Byte, b = 0 ↔ b.toNat = 0 := fun b => by bv_omega
  simp only [toneOf, hzero, toNat_countDown, Nat.pred_eq_sub_one]
  split
  · rfl
  · next h => simp only [show s.st.toNat - 1 = 0 ↔ s.st.toNat = 1 by omega]

/-- Settles O16: a cycle happens only below IPF and counts one, and a tick starts again at 0. -/
theorem stepKeepsFrameCount : Obligations.StepKeepsFrameCount := by
  intro s t _ h
  obtain ⟨-, ⟨-, rfl⟩ | ⟨hc, w, i, u, -, -, hu, rfl⟩⟩ := step_cases h
  · exact Nat.zero_le _
  · rw [FrameCountInRange, State.countCycle_cyc, exec_keeps_cyc hu]
    exact hc

/-- A step inside a frame counts one cycle and emits nothing. -/
theorem step_inside_frame {s t : State} (hc : s.cyc < ipf) (h : step s = .next t) :
    t.status = .running ∧ t.cyc = s.cyc + 1 ∧ t.emitted = s.emitted := by
  obtain ⟨hs, ⟨hle, -⟩ | ⟨-, w, i, u, -, -, hu, rfl⟩⟩ := step_cases h
  · omega
  · exact ⟨(exec_keeps_status hu).trans hs, congrArg (· + 1) (exec_keeps_cyc hu),
      exec_keeps_emitted (t := u) hu⟩

/-- A run inside a frame counts its steps and emits nothing. -/
theorem run_inside_frame {s t : State} {k : Nat} (hs : s.status = .running) (hk : s.cyc + k ≤ ipf)
    (h : RunsTo k s t) : t.status = .running ∧ t.cyc = s.cyc + k ∧ t.emitted = s.emitted := by
  induction k generalizing s with
  | zero => cases h; exact ⟨hs, rfl, rfl⟩
  | succ k ih =>
    obtain ⟨u, hstep, hrun⟩ := h
    obtain ⟨hus, huc, hue⟩ := step_inside_frame (by omega) hstep
    obtain ⟨hts, htc, hte⟩ := ih hus (by omega) hrun
    exact ⟨hts, by omega, hte.trans hue⟩

theorem runsTo_add {s t : State} {m n : Nat} (h : RunsTo (m + n) s t) :
    ∃ u, RunsTo m s u ∧ RunsTo n u t := by
  induction m generalizing s with
  | zero => exact ⟨s, rfl, by rwa [Nat.zero_add] at h⟩
  | succ m ih =>
    rw [Nat.add_right_comm] at h
    obtain ⟨v, hv, hrun⟩ := h
    obtain ⟨u, hm, hn⟩ := ih hrun
    exact ⟨u, ⟨v, hv, hm⟩, hn⟩

/-- Settles O13: IPF steps from the start of a frame are cycles (`run_inside_frame`), after which CYC is IPF and
the next step is the tick. -/
theorem exactlyOneTickAFrame : Obligations.ExactlyOneTickAFrame := by
  intro s t hs h0
  constructor
  · intro k hk h
    simpa only [h0, Nat.zero_add] using run_inside_frame hs (by omega) h
  · intro h
    obtain ⟨u, hrun, v, hstep, rfl⟩ := runsTo_add h
    obtain ⟨hus, huc, hue⟩ := run_inside_frame hs (by omega) hrun
    rw [step_eq_tick hus (by omega)] at hstep
    cases hstep
    exact ⟨hus, rfl, _, congrArg _ hue⟩

/-! ### The end of a run -/

/-- `t` is `s` but for DT, ST, CYC and the record of frames, and no timer is higher. -/
def OnlyTimersAndOutput (s t : State) : Prop :=
  t.dt.toNat ≤ s.dt.toNat ∧ t.st.toNat ≤ s.st.toNat ∧
    t = { s with dt := t.dt, st := t.st, cyc := t.cyc, emitted := t.emitted }

namespace OnlyTimersAndOutput
variable {s t u : State}

theorem refl (s : State) : OnlyTimersAndOutput s s := ⟨Nat.le_refl _, Nat.le_refl _, rfl⟩

theorem trans (h : OnlyTimersAndOutput s t) (h' : OnlyTimersAndOutput t u) : OnlyTimersAndOutput s u := by
  obtain ⟨hdt, hst, heq⟩ := h
  obtain ⟨hdt', hst', heq'⟩ := h'
  refine ⟨Nat.le_trans hdt' hdt, Nat.le_trans hst' hst, ?_⟩
  rw [heq] at heq'
  exact heq'

theorem status (h : OnlyTimersAndOutput s t) : t.status = s.status := by rw [h.2.2]

/-- The end of a run is a matter of PC and memory. -/
theorem runEnded (h : OnlyTimersAndOutput s t) : runEnded t = Machine.runEnded s := by rw [h.2.2]; rfl

end OnlyTimersAndOutput

theorem countDown_le (b : Byte) : (countDown b).toNat ≤ b.toNat :=
  (toNat_countDown b).trans_le (Nat.pred_le _)

/-- At the end of a run a step is the tick or the jump to where PC is. -/
theorem step_of_runEnded {s : State} (hs : s.status = .running) (h : runEnded s = true) :
    ∃ t, step s = .next t ∧ OnlyTimersAndOutput s t := by
  obtain ⟨nnn, hw, hpc⟩ := runEnded_iff.1 h
  rcases Nat.lt_or_ge s.cyc ipf with hc | hc
  · refine ⟨_, step_of_exec_next hs hc hw (decodeWord_encodeWord _) (exec_jp nnn s), Nat.le_refl _,
      Nat.le_refl _, ?_⟩
    rw [hpc]; rfl
  · exact ⟨_, step_eq_tick hs hc, countDown_le _, countDown_le _, rfl⟩

theorem run_of_runEnded (n : Nat) {s : State} (hs : s.status = .running) (h : runEnded s = true) :
    ∃ t, RunsTo n s t ∧ OnlyTimersAndOutput s t := by
  induction n generalizing s with
  | zero => exact ⟨s, rfl, .refl s⟩
  | succ n ih =>
    obtain ⟨u, hstep, hu⟩ := step_of_runEnded hs h
    obtain ⟨t, hrun, ht⟩ := ih (hu.status.trans hs) (hu.runEnded.trans h)
    exact ⟨t, ⟨u, hstep, hrun⟩, hu.trans ht⟩

/-- Settles O59: each step from the end of a run changes only the timers and the output (`step_of_runEnded`), so
the next is at the end of a run again. -/
theorem endedRunChangesOnlyTimersAndOutput : Obligations.EndedRunChangesOnlyTimersAndOutput := by
  intro s hs h n
  obtain ⟨t, hrun, ht⟩ := run_of_runEnded n hs h
  exact ⟨t, hrun, ht.runEnded.trans h, ht⟩

end Sys2Proof.Machine
end

section
/-! The statements about the reset (70_reset_and_hazards.md; 10_state.md R26). -/

namespace Sys2Proof.Machine

/-! ### Memory after a reset -/

theorem Memory.unlisted_of_le {a : Nat} (h : 80 ≤ a) : Memory.unlisted a = 0 :=
  List.getD_eq_default _ _ h

/-- Memory after a reset, from the last of the three things that are placed to the first: ROM, font, zeros. -/
theorem read_bootMemory (p : ResetParams) (rom : List Byte) (a : Nat) :
    Memory.read (bootMemory p rom) a =
      if romBase ≤ a ∧ a < romBase + rom.length then rom.getD (a - romBase) 0
      else if a < 80 then p.fontBytes.toList.getD a 0 else 0 := by
  simp only [bootMemory, Memory.read_load, Vector.length_toList, Nat.zero_le, true_and, Nat.zero_add,
    Nat.sub_zero, List.length_replicate]
  split
  · rfl
  · split
    · rfl
    · exact Memory.unlisted_of_le (by omega)

/-- A canonical list that reads everywhere as the reset content lists nothing. -/
theorem Memory.eq_nil_of_read {m : Memory} (hm : m.wf) (h : ∀ a, Memory.read m a = Memory.unlisted a) :
    m = [] := by
  cases m with
  | nil => rfl
  | cons c rest =>
    have hc := h c.1
    rw [Memory.read, if_pos rfl] at hc
    exact absurd hc (hm.2 c List.mem_cons_self).2

theorem bootMemory_default : bootMemory {} [] = [] := by
  refine Memory.eq_nil_of_read (bootMemory_wf {} (Nat.zero_le _)) fun a => ?_
  rw [read_bootMemory, if_neg (by simp only [List.length_nil]; omega)]
  split
  · rfl
  · exact (Memory.unlisted_of_le (by omega)).symm

/-! ### The statements -/

theorem boot_of_le (p : ResetParams) {rom : List Byte} (h : rom.length ≤ romMax) :
    boot p rom = .next { State.reset with
      v := p.v, i := p.i, dt := p.dt, st := p.st, fb := p.fb, stk := p.stk, mem := bootMemory p rom } := by
  rw [boot, if_neg (Nat.not_lt.2 h)]

/-- Settles O55: `read_bootMemory` on the three ranges, and `bootMemory_wf` for the form. -/
theorem bootPlacesFontAndRom : Obligations.BootPlacesFontAndRom := by
  intro p rom h
  refine ⟨_, boot_of_le p h, fun k => ?_, fun k hk => ?_, fun a ha hfont hrom => ?_,
    bootMemory_wf p h, rfl, rfl, rfl, rfl, rfl, rfl, rfl, rfl, rfl, rfl⟩
  · have hk := k.isLt
    rw [memRead_of_lt _ (by omega), read_bootMemory, if_neg (by simp only [romBase]; omega), if_pos hk,
      List.getD_eq_getElem _ _ (by simpa only [Vector.length_toList] using hk), Vector.getElem_toList]
    rfl
  · rw [memRead_of_lt _ (by omega), read_bootMemory, if_pos (by simp only [romBase]; omega), romBase,
      Nat.add_sub_cancel_left,
      List.getD_eq_getElem _ _ hk]
  · rw [memRead_of_lt _ ha, read_bootMemory, if_neg (by simp only [romBase]; omega), if_neg (by omega)]

/-- Settles O56: 3584 is ROM_MAX, and the reset checks the length first. -/
theorem oversizedRomNeverRuns : Obligations.OversizedRomNeverRuns := by
  intro p rom h
  exact if_pos h

/-- Settles O57: with the default font and no ROM every byte reads as the reset content (`bootMemory_default`). -/
theorem resetIsBootWithNoRom : Obligations.ResetIsBootWithNoRom := by
  unfold Obligations.ResetIsBootWithNoRom
  rw [boot_of_le {} (Nat.zero_le _), bootMemory_default]
  rfl

/-- Settles O17: nothing is listed in memory, no return address is live, and CYC is 0. -/
theorem resetMeetsEveryInvariant : Obligations.ResetMeetsEveryInvariant := by
  exact ⟨Memory.wf_reset, ⟨by decide, fun k hk => absurd hk (Nat.not_lt_zero _)⟩, Nat.zero_le _⟩

theorem reg_reset (x : Reg) : State.reset.reg x = 0 := Vector.getElem_replicate _

theorem pixel_blankFramebuffer (c : Fin 64) (r : Fin 32) : pixel blankFramebuffer c r = false := by
  rw [pixel, blankFramebuffer, Vector.getElem_replicate]
  exact BitVec.getLsbD_zero

/-- Settles O58: every register is a literal 0 or a vector of zeros, and an unlisted byte above the font
reads as 0. -/
theorem resetValues : Obligations.ResetValues := by
  refine ⟨rfl, rfl, rfl, rfl, reg_reset, rfl, rfl, rfl, pixel_blankFramebuffer, fun a hfont ha => ?_⟩
  rw [memRead_of_lt _ ha]
  exact congrArg _ (Memory.unlisted_of_le hfont)

end Sys2Proof.Machine
end
